-- ==== Sys2Proof/Word.lean ====
section
/-! DEFINITION. The word types of the LDSB: names for the widths the spec fixes (spec/00_scope.md R6, R7). -/

namespace Sys2Proof

/-- A 16-bit word: what one shift transmits (WORD_WIDTH, R6), a setter's `value` operand and a frame index (R7). -/
abbrev Word := BitVec 16

/-- A 32-bit command word (CMD_WIDTH, R7), and the value of a 32-bit host register (REG_WIDTH, R7). -/
abbrev Word32 := BitVec 32

/-- The 48-bit function-control word (FC_WIDTH, R6, R22). -/
abbrev FcWord := BitVec 48

/-- The five address bits the block decodes inside its 32-byte window (spec/20_memory.md R51). -/
abbrev Offset := BitVec 5

end Sys2Proof
end

