-- ==== Sys2Proof/Syntax.lean ====
section
/-! DEFINITION. The commands of the LDSB, one constructor per row of spec/opcode_table.json, with the operands of
spec/30_encoding.md R72 to R77. -/

namespace Sys2Proof

/-- A command. Every operand is an unsigned field of the command word (R77); none is a register or an address (R20). -/
inductive Instr where
  /-- NOP: no operation (R139). -/
  | nop
  /-- SET_LOD: the LOD detection threshold (R106). -/
  | setLod (value : Word)
  /-- SET_HOLD: the output-hold timing select (R107). -/
  | setHold (value : Word)
  /-- SET_GDLY: the group-delay enable (R108). -/
  | setGdly (value : Word)
  /-- SET_AUTOREF: the auto-refresh mode (R109). -/
  | setAutoref (value : Word)
  /-- SET_GSEDGE: the clock-edge select for greyscale (R110). -/
  | setGsedge (value : Word)
  /-- SET_PCHG: the pre-charge mode select (R111). -/
  | setPchg (value : Word)
  /-- SET_EPWM: the enhanced-PWM mode (R112). -/
  | setEpwm (value : Word)
  /-- SET_BLUECOMP: the blue-channel low-greyscale compensation (R113). -/
  | setBluecomp (value : Word)
  /-- SET_DBLEDGE: the input clock double-edge select (R114). -/
  | setDbledge (value : Word)
  /-- SET_LGSE1: the low-greyscale enhancement level for red and green (R115). -/
  | setLgse1 (value : Word)
  /-- SET_BRB: the blue channel brightness (R116). -/
  | setBrb (value : Word)
  /-- SET_BRG: the green channel brightness (R117). -/
  | setBrg (value : Word)
  /-- SET_BRR: the red channel brightness (R118). -/
  | setBrr (value : Word)
  /-- SET_GAIN: the global brightness gain (R119). -/
  | setGain (value : Word)
  /-- SET_POKER: the poker-transmission mode (R120). -/
  | setPoker (value : Word)
  /-- SET_LGSE2: the low-greyscale enhancement level 2 (R121). -/
  | setLgse2 (value : Word)
  /-- SHIFT: shift one word out with `n` trailing latch bits (R137). -/
  | shift (word : Word) (n : BitVec 5)
  /-- SETDATA: set the data line (R138). -/
  | setdata (d : Bool)
  /-- UNLOCK: the configuration unlock pulse train (R151). -/
  | unlock
  /-- FCLOAD: stream the FC word with the commit latch (R153). -/
  | fcload
  /-- RENDER: stream one frame, lighting channel `ch` (0 Blue, 1 Green, 2 Red) for frame index `f` (R177). -/
  | render (f : Word) (ch : BitVec 2) (dir : Bool)
deriving DecidableEq, Repr

end Sys2Proof
end

