-- ==== Sys2Proof/WellFormed.lean ====
section
/-! DEFINITION. Which commands have an encoding: the operand types bound every operand but one, RENDER's channel. -/

namespace Sys2Proof

/-- The one operand value that the format admits and the spec makes illegal: `ch = 3` in RENDER (R76, R79). -/
def Instr.wf : Instr → Bool
  | .nop => true
  | .setLod _ => true
  | .setHold _ => true
  | .setGdly _ => true
  | .setAutoref _ => true
  | .setGsedge _ => true
  | .setPchg _ => true
  | .setEpwm _ => true
  | .setBluecomp _ => true
  | .setDbledge _ => true
  | .setLgse1 _ => true
  | .setBrb _ => true
  | .setBrg _ => true
  | .setBrr _ => true
  | .setGain _ => true
  | .setPoker _ => true
  | .setLgse2 _ => true
  | .shift _ _ => true
  | .setdata _ => true
  | .unlock => true
  | .fcload => true
  | .render _ ch _ => ch != 3#2

end Sys2Proof
end

