-- ==== Sys2Proof/Decode.lean ====
section
/-! DEFINITION. Decoding a command word and encoding a command: spec/30_encoding.md R70 to R81, spec/opcode_table.json. -/

namespace Sys2Proof

/-- `v[lo+w-1:lo]`, the spec's bit-field read (R9). -/
def bits (v : Word32) (lo w : Nat) : BitVec w := v.extractLsb' lo w

/-- Why a word is no command: the three causes of ERR_ILL that spec/60_exceptions.md R201 lists. -/
inductive DecodeError where
  /-- an opcode 0x7 to 0xF -/
  | reservedOpcode (op : BitVec 4)
  /-- a nonzero reserved field -/
  | reservedField
  /-- RENDER with ch = 3 -/
  | channelThree
deriving DecidableEq, Repr

/-- `legal(v)`, as R79 writes it. The decoder below does not call it. -/
def legal (v : Word32) : Bool :=
  match (bits v 28 4).toNat with
  | 0 => bits v 0 28 == 0
  | 4 => bits v 0 28 == 0
  | 5 => bits v 0 28 == 0
  | 1 => bits v 16 8 == 0
  | 2 => bits v 21 7 == 0
  | 3 => bits v 1 27 == 0
  | 6 => bits v 19 9 == 0 && bits v 16 2 != 3#2
  | _ => false

/-- The setter that a format S selector names (R78): all sixteen selectors are assigned. -/
def setterOf (sel : BitVec 4) (value : Word) : Instr :=
  match sel.toNat with
  | 0x0 => .setLod value
  | 0x1 => .setHold value
  | 0x2 => .setGdly value
  | 0x3 => .setAutoref value
  | 0x4 => .setGsedge value
  | 0x5 => .setPchg value
  | 0x6 => .setEpwm value
  | 0x7 => .setBluecomp value
  | 0x8 => .setDbledge value
  | 0x9 => .setLgse1 value
  | 0xA => .setBrb value
  | 0xB => .setBrg value
  | 0xC => .setBrr value
  | 0xD => .setGain value
  | 0xE => .setPoker value
  | _ => .setLgse2 value

/-- Answer `i` if a reserved field is zero: every reserved field must be zero (R79). -/
def ifZero {w : Nat} (reserved : BitVec w) (i : Instr) : Except DecodeError Instr :=
  if reserved = 0 then .ok i else .error .reservedField

/-- The command a word stands for, or the reason it is illegal. Total on all 2^32 words (R81). -/
def decode (v : Word32) : Except DecodeError Instr :=
  match (bits v 28 4).toNat with
  | 0x0 => ifZero (bits v 0 28) .nop
  | 0x1 => ifZero (bits v 16 8) (setterOf (bits v 24 4) (bits v 0 16))
  | 0x2 => ifZero (bits v 21 7) (.shift (bits v 0 16) (bits v 16 5))
  | 0x3 => ifZero (bits v 1 27) (.setdata (bits v 0 1 == 1#1))
  | 0x4 => ifZero (bits v 0 28) .unlock
  | 0x5 => ifZero (bits v 0 28) .fcload
  | 0x6 =>
    if bits v 16 2 = 3#2 then .error .channelThree
    else ifZero (bits v 19 9) (.render (bits v 0 16) (bits v 16 2) (bits v 18 1 == 1#1))
  | _ => .error (.reservedOpcode (bits v 28 4))

/-- Format Z (R72): the opcode over 28 zero bits. -/
def formatZ (op : BitVec 4) : Word32 := op ++ 0#28

/-- Format S (R73): opcode 1, selector, eight zero bits, value. -/
def formatS (sel : BitVec 4) (value : Word) : Word32 := 0x1#4 ++ sel ++ 0#8 ++ value

/-- Format T (R74): opcode 2, seven zero bits, latch count, word. -/
def formatT (n : BitVec 5) (word : Word) : Word32 := 0x2#4 ++ 0#7 ++ n ++ word

/-- Format D (R75): opcode 3, 27 zero bits, the data level. -/
def formatD (d : Bool) : Word32 := 0x3#4 ++ 0#27 ++ BitVec.ofBool d

/-- Format R (R76): opcode 6, nine zero bits, direction, channel, frame index. -/
def formatR (dir : Bool) (ch : BitVec 2) (f : Word) : Word32 := 0x6#4 ++ 0#9 ++ BitVec.ofBool dir ++ ch ++ f

/-- The word of a command (R72 to R76 with the opcodes of R71 and the selectors of R78). -/
def encode : Instr → Word32
  | .nop => formatZ 0x0#4
  | .setLod value => formatS 0x0#4 value
  | .setHold value => formatS 0x1#4 value
  | .setGdly value => formatS 0x2#4 value
  | .setAutoref value => formatS 0x3#4 value
  | .setGsedge value => formatS 0x4#4 value
  | .setPchg value => formatS 0x5#4 value
  | .setEpwm value => formatS 0x6#4 value
  | .setBluecomp value => formatS 0x7#4 value
  | .setDbledge value => formatS 0x8#4 value
  | .setLgse1 value => formatS 0x9#4 value
  | .setBrb value => formatS 0xA#4 value
  | .setBrg value => formatS 0xB#4 value
  | .setBrr value => formatS 0xC#4 value
  | .setGain value => formatS 0xD#4 value
  | .setPoker value => formatS 0xE#4 value
  | .setLgse2 value => formatS 0xF#4 value
  | .shift word n => formatT n word
  | .setdata d => formatD d
  | .unlock => formatZ 0x4#4
  | .fcload => formatZ 0x5#4
  | .render f ch dir => formatR dir ch f

/-- The 32-bit command word of `nbits` bits given as a number, the bits above them zero. -/
def tableWord (nbits w : Nat) : Word32 := BitVec.ofNat 32 (w % 2 ^ nbits)

/-- The command the decoder reads from a table row's bits: the one word of the one length (R70), so the table's bit
numbering is the word's own. A row of more than 32 bits does not exist, and none is read. -/
def decodeTableWord (nbits w : Nat) : Option Instr :=
  if nbits ≤ 32 then (decode (tableWord nbits w)).toOption else none

end Sys2Proof
end

