-- ==== Sys2Proof/Config.lean ====
section
/-! DEFINITION. What the spec leaves open: how the turns of the two agents interleave once the written schedule is used up. -/

namespace Sys2Proof

/-- The two agents of the model (spec/00_scope.md R3): the host performs register accesses, the engine performs
pending pin events. The external driver chip is no agent. -/
inductive Agent where
  | host
  | engine
deriving DecidableEq, Repr

/-- FREE VALUE: how many turns the host takes before the engine takes its turn number `k` of those that the schedule in
State does not fix. The spec leaves the interleaving of the two agents free under fairness of the engine
(spec/20_memory.md R61, spec/93_implementation_defined.md I11): any number of the engine's turns may stand between two of
the host's, and any finite number of the host's between two of the engine's. It has no body, so nothing can be proved of
a number (log entry 1). -/
opaque Config.freeGap : Nat → Nat

end Sys2Proof
end

