-- ==== Sys2Proof/Machine/State.lean ====
section
/-! DEFINITION. The state of the LDSB with its two agents, as plain data: spec/10_state.md R20 to R39, the host port of
spec/20_memory.md R52 to R61, the reset input of spec/70_reset_and_hazards.md R230. The block has no memory (R50), no
program counter (R21) and no general registers (R20). -/

namespace Sys2Proof.Machine

/-- A fault of a host access. The step RECORDS it (`State.resp`, `State.busFault`) and the machine goes on, because the
spec has no state change and no trap follow from it (R53, R203, R205). Log entry 4. -/
inductive Fault where
  /-- Raised by `hostAccess` for an access that is not an aligned 32-bit word (R203). Safe: the faulted state is never
  final, and a read so answered delivers no value. -/
  | busError (off : Offset)
deriving DecidableEq, Repr

/-- A command that the model gives no meaning. -/
inductive Refusal where
  /-- Raised only by an arm of `exec` that has no meaning yet; no arm of this model is one. Safe: the machine stops. -/
  | notModelled (mnemonic : String)
deriving DecidableEq, Repr

/-- The four output lines (R25): true is level 1. Also one vector of the waveform (R131). -/
structure Pins where
  data : Bool
  clock : Bool
  latch : Bool
  halo : Bool
deriving DecidableEq, Repr

/-- All four lines at their reset level, 0 (R38, R231). -/
def Pins.low : Pins := { data := false, clock := false, latch := false, halo := false }

/-- A pin event: one assignment of one output line (R130). -/
inductive Event where
  | setData (b : Bool)
  | setClock (b : Bool)
  | setLatch (b : Bool)
  | setHalo (b : Bool)
deriving DecidableEq, Repr

/-- One entry of the observer's record of the waveform: the vector after an engine step (R131), or the step to
(0,0,0,0) that an assertion of RST makes (R231). -/
inductive WaveStep where
  | event (v : Pins)
  | reset
deriving DecidableEq, Repr

/-- The pin levels an entry of the waveform stands for. -/
def WaveStep.vector : WaveStep → Pins
  | .event v => v
  | .reset => Pins.low

/-- How wide a host access is (R52, R53). -/
inductive Width where
  | byte
  | half
  | word
deriving DecidableEq, Repr

/-- What a host access does. -/
inductive AccessKind where
  | read
  | write (v : Word32)
deriving DecidableEq, Repr

/-- One host access as the block sees it: the platform has matched the address bits above bit 4 against BASE, and
`off` is address bits [4:0] (R51). -/
structure Access where
  off : Offset
  width : Width
  kind : AccessKind
deriving DecidableEq, Repr

/-- What the host agent still has to do: an access, or the macro WAIT, which reads STATUS until BUSY reads 0 (R83). -/
inductive HostAction where
  | access (a : Access)
  | wait
deriving DecidableEq, Repr

/-- The bus's answer to a host access. -/
inductive Response where
  /-- a read's value -/
  | value (v : Word32)
  /-- a write was taken -/
  | written
  /-- the access was answered with a bus error and delivered no value (R203) -/
  | fault (f : Fault)
  /-- the access came while RST was asserted and was discarded (R230) -/
  | discarded
deriving DecidableEq, Repr

/-- One turn of the schedule: an agent's step, or a change of the RST input to a level (true is asserted). -/
inductive Turn where
  | agent (a : Agent)
  | rst (level : Bool)
deriving DecidableEq, Repr

/-- The state. The first eight fields are the block's, and the block holds no other (R39). `rst` is its reset input.
The rest is what drives and observes it: the host's pending accesses, the bus's last answer, the record of a bus
fault, the schedule, and the observer's waveform. -/
structure State where
  /-- the 48-bit FC word (R22) -/
  fc : FcWord
  /-- the output levels (R25) -/
  pins : Pins
  /-- the pending pin events, the next one first (R30) -/
  queue : List Event
  /-- sticky: an illegal command was written (R27) -/
  errIll : Bool
  /-- sticky: a command was written while busy (R27) -/
  errBusy : Bool
  /-- the last accepted RENDER had f < 16 (R28) -/
  resInrange : Bool
  /-- f mod 16 of the last accepted RENDER (R28) -/
  resKidx : BitVec 4
  /-- the position lit by the last accepted RENDER (R28) -/
  resLitpos : BitVec 4
  /-- the RST input is asserted (R230) -/
  rst : Bool
  /-- what the host does next, the next action first (R60) -/
  host : List HostAction
  /-- the bus's answer to the last access, if there was one -/
  resp : Option Response
  /-- the last bus fault recorded, if there was one: a faulted state is never final (R203) -/
  busFault : Option Fault
  /-- the schedule of the coming steps, the next one first (R61) -/
  turns : List Turn
  /-- how many of the free gaps between the engine's turns are over (`Config.freeGap`) -/
  gapIndex : Nat
  /-- how many turns the host has taken in the free gap that is running -/
  gapTurns : Nat
  /-- the waveform, the latest entry first (R131, R245) -/
  wave : List WaveStep
deriving DecidableEq, Repr

/-- The machine right after reset: the block's state at the values of R38, RST deasserted (R233), and nothing yet
done, scheduled or observed outside it (log entries 6 and 7). -/
def State.reset : State :=
  { fc := 0x000000000000#48
    pins := Pins.low
    queue := []
    errIll := false
    errBusy := false
    resInrange := false
    resKidx := 0#4
    resLitpos := 0#4
    rst := false
    host := []
    resp := none
    busFault := none
    turns := []
    gapIndex := 0
    gapTurns := 0
    wave := [] }

end Sys2Proof.Machine
end

