-- ==== Sys2Proof/Machine/Flags.lean ====
section
/-! DEFINITION. The status bits and the registers the host reads them through: spec/10_state.md R27, R31 to R37. The
block has no condition codes: no command computes a flag, and no command reads one (R27, R216). -/

namespace Sys2Proof.Machine

/-- `busy = (queue ≠ [])`: not a stored bit (R27). -/
def State.busy (s : State) : Bool := !s.queue.isEmpty

/-- `Flag(ERR_ILL)` (R201): the error of an illegal word, which changes nothing else. -/
def State.flagIll (s : State) : State := { s with errIll := true }

/-- `Flag(ERR_BUSY)` (R202): the error of a command written while busy, which changes nothing else. -/
def State.flagBusy (s : State) : State := { s with errBusy := true }

/-- A write of `v` to STATUS (R33): a 1 in bit 1 clears ERR_ILL, a 1 in bit 2 clears ERR_BUSY. -/
def State.clearErrors (v : Word32) (s : State) : State :=
  { s with
    errIll := s.errIll && !v.getLsbD 1
    errBusy := s.errBusy && !v.getLsbD 2 }

/-- `fc_low = fc[15:0]` (R22). -/
def fcLow (fc : FcWord) : Word := fc.extractLsb' 0 16

/-- `fc_mid = fc[31:16]` (R22). -/
def fcMid (fc : FcWord) : Word := fc.extractLsb' 16 16

/-- `fc_high = fc[47:32]` (R22). -/
def fcHigh (fc : FcWord) : Word := fc.extractLsb' 32 16

/-- STATUS as read: `{29'b0, err_busy, err_ill, busy}` (R33). -/
def State.statusReg (s : State) : Word32 :=
  0#29 ++ BitVec.ofBool s.errBusy ++ BitVec.ofBool s.errIll ++ BitVec.ofBool s.busy

/-- RESULT as read: `{20'b0, res_litpos, res_kidx, 3'b0, res_inrange}` (R35). -/
def State.resultReg (s : State) : Word32 :=
  0#20 ++ s.resLitpos ++ s.resKidx ++ 0#3 ++ BitVec.ofBool s.resInrange

/-- PINS as read: `{28'b0, halo, latch, clock, data}` (R36). -/
def State.pinsReg (s : State) : Word32 :=
  0#28 ++ BitVec.ofBool s.pins.halo ++ BitVec.ofBool s.pins.latch ++ BitVec.ofBool s.pins.clock
    ++ BitVec.ofBool s.pins.data

/-- Whether an access is a whole aligned 32-bit word (R53). -/
def Access.isAlignedWord (a : Access) : Bool := a.width == .word && a.off.extractLsb' 0 2 == 0#2

/-- The register number an access selects: the offset divided by 4, address bits [4:2] (R51). -/
def Access.regNumber (a : Access) : Nat := (a.off.extractLsb' 2 3).toNat

/-- The value of a host register (R32 to R37). No read has a side effect (R54). -/
def State.readReg (s : State) (reg : Nat) : Word32 :=
  match reg with
  | 1 => s.statusReg
  | 2 => (fcLow s.fc).setWidth 32
  | 3 => (fcMid s.fc).setWidth 32
  | 4 => (fcHigh s.fc).setWidth 32
  | 5 => s.resultReg
  | 6 => s.pinsReg
  | _ => 0#32

end Sys2Proof.Machine
end

