-- ==== Sys2Proof/Machine/Ops.lean ====
section
/-! DEFINITION. The shared operations: performing pin events (spec/41_transmitter.md R130), presenting a command to the
block (spec/30_encoding.md R81), its two non-pin effects, the error reports (spec/60_exceptions.md R201 to R206) and
reset (spec/70_reset_and_hazards.md R230 to R232). -/

namespace Sys2Proof.Machine

/-- What one pin event does to the output levels (R130): it writes its line, also when the line holds that level. -/
def performEvent (p : Pins) : Event → Pins
  | .setData b => { p with data := b }
  | .setClock b => { p with clock := b }
  | .setLatch b => { p with latch := b }
  | .setHalo b => { p with halo := b }

/-- The output levels after a list of pin events, performed in list order (R132). -/
def performEvents (p : Pins) (es : List Event) : Pins := es.foldl performEvent p

/-- `EngineStep` (R130): perform the head of the queue. It is enabled iff the queue is not empty, and the engine takes
no step while RST is asserted (R230); an engine's turn that is not enabled changes nothing (log entry 3). The vector
after the step joins the waveform (R131). -/
def engineStep (s : State) : State :=
  if s.rst then s
  else match s.queue with
    | [] => s
    | e :: rest =>
      { s with
        pins := performEvent s.pins e
        queue := rest
        wave := .event (performEvent s.pins e) :: s.wave }

/-- `Enqueue(list)` (R10, R81): the list becomes the queue. -/
def State.enqueue (es : List Event) (s : State) : State := { s with queue := es }

/-- The new FC word of a setter: the only write of `fc` by a command (R24, R100). -/
def State.writeFc (fc : FcWord) (s : State) : State := { s with fc := fc }

/-- The three result fields, written by RENDER at its accept (R28, R178). -/
def State.writeResult (inrange : Bool) (kidx litpos : BitVec 4) (s : State) : State :=
  { s with resInrange := inrange, resKidx := kidx, resLitpos := litpos }

/-- Present a command to the block (R81): while busy it is dropped and ERR_BUSY is set (R202), otherwise its effect
happens at once. The busy check comes before everything the command does. -/
def State.present (effect : State → State) (s : State) : State :=
  if s.busy then s.flagBusy else effect s

/-- The outcome of presenting a command: always a next state, since no error of the block stops it (R200, R205). -/
def accept (effect : State → State) (s : State) : Host.Outcome State Fault Refusal :=
  .next (s.present effect)

/-- The block's own state at its reset values (R38); nothing outside the block changes. -/
def State.resetBlock (s : State) : State :=
  { s with
    fc := 0x000000000000#48
    pins := Pins.low
    queue := []
    errIll := false
    errBusy := false
    resInrange := false
    resKidx := 0#4
    resLitpos := 0#4 }

/-- The RST input changes to a level (R230). Asserting it puts the block at its reset values at once, drops the pending
events (R232), and makes one step of the waveform to (0,0,0,0) (R231); the block stays there until it is deasserted. -/
def State.setRst (level : Bool) (s : State) : State :=
  if level then
    { s.resetBlock with rst := true, wave := if s.rst then s.wave else .reset :: s.wave }
  else { s with rst := false }

/-- The bus's answer to an access. -/
def State.respond (r : Response) (s : State) : State := { s with resp := some r }

/-- `raise BusError(off)` (R203): the answer delivers no value, no state of the block changes, and the fault is
recorded, so that the state is a faulted one. -/
def State.raiseBusError (off : Offset) (s : State) : State :=
  { s with resp := some (.fault (.busError off)), busFault := some (.busError off) }

end Sys2Proof.Machine
end

