-- ==== Sys2Proof/Machine/Operands.lean ====
section
/-! DEFINITION. The operand forms: the FC fields and how a setter's value becomes a field's bit pattern
(spec/10_state.md R23, spec/40_codec.md R101 to R104), and RENDER's index, word and latch operands
(spec/43_frame_streamer.md R170 to R174). The parameters are those of spec/00_scope.md R6 and R7. -/

namespace Sys2Proof.Machine

/-- The sixteen fields of the FC word (R23). -/
inductive Field where
  | lod | hold | gdly | autoref | gsedge | pchg | epwm | bluecomp | dbledge | lgse1 | brb | brg | brr | gain | poker
  | lgse2
deriving DecidableEq, Repr

/-- The lowest FC bit of a field (R23). -/
def Field.lo : Field → Nat
  | .lod => 0
  | .hold => 2
  | .gdly => 4
  | .autoref => 5
  | .gsedge => 6
  | .pchg => 7
  | .epwm => 8
  | .bluecomp => 9
  | .dbledge => 10
  | .lgse1 => 11
  | .brb => 14
  | .brg => 23
  | .brr => 32
  | .gain => 41
  | .poker => 44
  | .lgse2 => 45

/-- The width of a field (R23). -/
def Field.width : Field → Nat
  | .lod => 2
  | .hold => 2
  | .gdly => 1
  | .autoref => 1
  | .gsedge => 1
  | .pchg => 1
  | .epwm => 1
  | .bluecomp => 1
  | .dbledge => 1
  | .lgse1 => 3
  | .brb => 9
  | .brg => 9
  | .brr => 9
  | .gain => 3
  | .poker => 1
  | .lgse2 => 3

/-- FC_ENUM_DEFAULT, as a number: the pattern an enum field stores for a value out of its range, all zeros for every
field (R7, R103, log entry 9). -/
def fcEnumDefault (_ : Field) : Nat := 0b000

/-- `pattern(bool, …)`: 1 for every nonzero operand (R102). -/
def boolPattern (value : Word) : BitVec 1 := if value = 0 then 0#1 else 1#1

/-- `pattern(enum4, …)`: the table's entry, or the default from 4 up (R103). -/
def enum4Pattern {w : Nat} (p0 p1 p2 p3 dflt : BitVec w) (value : Word) : BitVec w :=
  match value.toNat with
  | 0 => p0
  | 1 => p1
  | 2 => p2
  | 3 => p3
  | _ => dflt

/-- `pattern(enum8, …)`: the value itself, or the default from 8 up (R103). -/
def enum8Pattern (dflt : BitVec 3) (value : Word) : BitVec 3 :=
  if value.toNat < 8 then value.setWidth 3 else dflt

/-- `pattern(uint9, …)`: `value & 0x1FF`, in nine bits (R104). -/
def uint9Pattern (value : Word) : BitVec 9 := (value &&& 0x1FF#16).setWidth 9

/-- The bit pattern a setter stores in its field for an operand: R102 to R104 by the field's kind (R23). -/
def pattern (fld : Field) (value : Word) : BitVec fld.width :=
  match fld with
  | .lod => enum4Pattern 0b00#2 0b01#2 0b10#2 0b11#2 (BitVec.ofNat 2 (fcEnumDefault .lod)) value
  | .hold => enum4Pattern 0b00#2 0b01#2 0b10#2 0b11#2 (BitVec.ofNat 2 (fcEnumDefault .hold)) value
  | .gdly => boolPattern value
  | .autoref => boolPattern value
  | .gsedge => boolPattern value
  | .pchg => boolPattern value
  | .epwm => boolPattern value
  | .bluecomp => boolPattern value
  | .dbledge => boolPattern value
  | .lgse1 => enum4Pattern 0b000#3 0b001#3 0b100#3 0b111#3 (BitVec.ofNat 3 (fcEnumDefault .lgse1)) value
  | .brb => uint9Pattern value
  | .brg => uint9Pattern value
  | .brr => uint9Pattern value
  | .gain => enum8Pattern (BitVec.ofNat 3 (fcEnumDefault .gain)) value
  | .poker => boolPattern value
  | .lgse2 => enum4Pattern 0b000#3 0b001#3 0b101#3 0b111#3 (BitVec.ofNat 3 (fcEnumDefault .lgse2)) value

/-- The 48-bit mask of a field: `((1 << w) - 1) << lo` (R101). -/
def fieldMask (fld : Field) : FcWord := ((1#48 <<< fld.width) - 1#48) <<< fld.lo

/-- `fc <- (fc & ~M) | (zext_48(pat) << lo)` (R101). -/
def insertField (fld : Field) (pat : BitVec fld.width) (fc : FcWord) : FcWord :=
  (fc &&& ~~~(fieldMask fld)) ||| (pat.setWidth 48 <<< fld.lo)

/-- The value a field holds, `fc[lo+w-1:lo]` (R23). -/
def readField (fld : Field) (fc : FcWord) : BitVec fld.width := fc.extractLsb' fld.lo fld.width

/-- The numbers `n-1, …, 1, 0`: the order in which bits (R57) and positions (R174) leave the block. -/
def downFrom : Nat → List Nat
  | 0 => []
  | n + 1 => n :: downFrom n

/-- The number of LED positions, LED_COUNT (R6). -/
def ledCount : Nat := 16

/-- The bits of one transmitted word, WORD_WIDTH (R6). -/
def wordWidth : Nat := 16

/-- The clock pulses of the unlock train, UNLOCK_CLOCKS (R6). -/
def unlockClocks : Nat := 15

/-- The latch bits that commit the FC load, FC_COMMIT_LATCH (R6). -/
def fcCommitLatch : BitVec 5 := 5#5

/-- The mid-stream latch count, GS_MID_LATCH (R6). -/
def gsMidLatch : BitVec 5 := 1#5

/-- The end-of-refresh latch count, GS_END_LATCH (R6). -/
def gsEndLatch : BitVec 5 := 3#5

/-- The greyscale word of the lit pair, GS_ON (R6). -/
def gsOn : Word := 0xFFFF#16

/-- The greyscale word of every other pair, GS_OFF (R6). -/
def gsOff : Word := 0x0000#16

/-- The three channels of a position (R13). -/
inductive Channel where
  | blue
  | green
  | red
deriving DecidableEq, Repr

/-- The number a channel has in RENDER's operand: 0 Blue, 1 Green, 2 Red (R76). -/
def Channel.code : Channel → BitVec 2
  | .blue => 0#2
  | .green => 1#2
  | .red => 2#2

/-- The stream order within a position: strictly Blue, Green, Red (R174). -/
def channelOrder : List Channel := [.blue, .green, .red]

/-- `f mod 16` (R170). -/
def frameKidx (f : Word) : BitVec 4 := BitVec.ofNat 4 (f.toNat % ledCount)

/-- `f < 16`: the pattern has not wrapped (R170). -/
def frameInrange (f : Word) : Bool := decide (f.toNat < ledCount)

/-- The lit position: `k` for dir = 0, `15 - k` for dir = 1 (R171). -/
def frameLitpos (f : Word) (dir : Bool) : BitVec 4 := if dir then 15#4 - frameKidx f else frameKidx f

/-- The greyscale word of position `p` and channel `c` (R172). -/
def gsWord (litpos : BitVec 4) (ch : BitVec 2) (p : Nat) (c : Channel) : Word :=
  if p = litpos.toNat ∧ c.code = ch then gsOn else gsOff

/-- The latch count of position `p` and channel `c`, the dual-mode latch (R173). -/
def gsLatch (p : Nat) (c : Channel) : BitVec 5 :=
  if c ≠ .red then 0#5 else if p ≠ 0 then gsMidLatch else gsEndLatch

end Sys2Proof.Machine
end

