-- ==== Sys2Proof/Machine/Codec.lean ====
section
/-! DEFINITION. The register codec: the sixteen setters of spec/40_codec.md R106 to R121 over the one update of R101. A
setter writes only `fc`, emits no event and sets no flag (R100). -/

namespace Sys2Proof.Machine

/-- `FCSET(sel, value)`: clear the field's mask, insert the operand's pattern (R101). -/
def fcset (fld : Field) (value : Word) (s : State) : Host.Outcome State Fault Refusal :=
  accept (fun s => s.writeFc (insertField fld (pattern fld value) s.fc)) s

/-- SET_LOD (R106). -/
def execSetLod (value : Word) (s : State) : Host.Outcome State Fault Refusal := fcset .lod value s

/-- SET_HOLD (R107). -/
def execSetHold (value : Word) (s : State) : Host.Outcome State Fault Refusal := fcset .hold value s

/-- SET_GDLY (R108). -/
def execSetGdly (value : Word) (s : State) : Host.Outcome State Fault Refusal := fcset .gdly value s

/-- SET_AUTOREF (R109). -/
def execSetAutoref (value : Word) (s : State) : Host.Outcome State Fault Refusal := fcset .autoref value s

/-- SET_GSEDGE (R110). -/
def execSetGsedge (value : Word) (s : State) : Host.Outcome State Fault Refusal := fcset .gsedge value s

/-- SET_PCHG (R111). -/
def execSetPchg (value : Word) (s : State) : Host.Outcome State Fault Refusal := fcset .pchg value s

/-- SET_EPWM (R112). -/
def execSetEpwm (value : Word) (s : State) : Host.Outcome State Fault Refusal := fcset .epwm value s

/-- SET_BLUECOMP (R113). -/
def execSetBluecomp (value : Word) (s : State) : Host.Outcome State Fault Refusal := fcset .bluecomp value s

/-- SET_DBLEDGE (R114). -/
def execSetDbledge (value : Word) (s : State) : Host.Outcome State Fault Refusal := fcset .dbledge value s

/-- SET_LGSE1 (R115). -/
def execSetLgse1 (value : Word) (s : State) : Host.Outcome State Fault Refusal := fcset .lgse1 value s

/-- SET_BRB (R116): the field spans `fc_low` and `fc_mid`. -/
def execSetBrb (value : Word) (s : State) : Host.Outcome State Fault Refusal := fcset .brb value s

/-- SET_BRG (R117). -/
def execSetBrg (value : Word) (s : State) : Host.Outcome State Fault Refusal := fcset .brg value s

/-- SET_BRR (R118). -/
def execSetBrr (value : Word) (s : State) : Host.Outcome State Fault Refusal := fcset .brr value s

/-- SET_GAIN (R119). -/
def execSetGain (value : Word) (s : State) : Host.Outcome State Fault Refusal := fcset .gain value s

/-- SET_POKER (R120). -/
def execSetPoker (value : Word) (s : State) : Host.Outcome State Fault Refusal := fcset .poker value s

/-- SET_LGSE2 (R121). -/
def execSetLgse2 (value : Word) (s : State) : Host.Outcome State Fault Refusal := fcset .lgse2 value s

end Sys2Proof.Machine
end

