-- ==== Sys2Proof/Machine/Transmitter.lean ====
section
/-! DEFINITION. The bit-serial transmitter: the shift algorithm and the commands NOP, SHIFT and SETDATA of
spec/41_transmitter.md R133 to R139. -/

namespace Sys2Proof.Machine

/-- The events of bit `i` of a shift: LATCH is raised if it falls in the trailing window, DATA is set, CLOCK is pulsed
(R133, in the order of R238). The test is `i < n`, the source's intent (R135, spec/90_conflicts.md C1). -/
def bitEvents (w : Word) (n : BitVec 5) (i : Nat) : List Event :=
  (if n ≠ 0 ∧ i < n.toNat then [.setLatch true] else [])
    ++ [.setData (w.getLsbD i), .setClock true, .setClock false]

/-- `shift_events(w, n)`: bits 15 down to 0, then LATCH is deasserted unconditionally (R133). -/
def shiftEvents (w : Word) (n : BitVec 5) : List Event :=
  (downFrom wordWidth).flatMap (bitEvents w n) ++ [.setLatch false]

/-- NOP: nothing happens, and the event list is empty, so `busy` stays 0 (R139). -/
def execNop (s : State) : Host.Outcome State Fault Refusal := accept (fun s => s) s

/-- SHIFT: `Enqueue(shift_events(word, n))` (R137). -/
def execShift (word : Word) (n : BitVec 5) (s : State) : Host.Outcome State Fault Refusal :=
  accept (State.enqueue (shiftEvents word n)) s

/-- SETDATA: `Enqueue([SetData(d)])` (R138). -/
def execSetdata (d : Bool) (s : State) : Host.Outcome State Fault Refusal :=
  accept (State.enqueue [.setData d]) s

end Sys2Proof.Machine
end

