-- ==== Sys2Proof/Machine/Frame.lean ====
section
/-! DEFINITION. The frame streamer: the command RENDER of spec/43_frame_streamer.md R170 to R177. -/

namespace Sys2Proof.Machine

/-- The shift of one position and channel: its greyscale word with its latch count (R172, R173, R176). -/
def gsEvents (litpos : BitVec 4) (ch : BitVec 2) (p : Nat) (c : Channel) : List Event :=
  shiftEvents (gsWord litpos ch p c) (gsLatch p c)

/-- The three words of a position, in channel order (R174). -/
def positionEvents (litpos : BitVec 4) (ch : BitVec 2) (p : Nat) : List Event :=
  channelOrder.flatMap (gsEvents litpos ch p)

/-- `render_events(f, ch, dir)`: HALO_EN goes low, the positions 15 down to 0 are streamed, HALO_EN goes high (R174 to
R176). -/
def renderEvents (f : Word) (ch : BitVec 2) (dir : Bool) : List Event :=
  .setHalo false :: (downFrom ledCount).flatMap (positionEvents (frameLitpos f dir) ch) ++ [.setHalo true]

/-- RENDER: the result fields, then `Enqueue(render_events(f, ch, dir))` (R177). The operand `ch = 3` is no channel and
makes the command illegal (R79, R201); the decoder answers no such command. -/
def execRender (f : Word) (ch : BitVec 2) (dir : Bool) (s : State) : Host.Outcome State Fault Refusal :=
  accept
    (fun s =>
      if ch = 3#2 then s.flagIll
      else (s.writeResult (frameInrange f) (frameKidx f) (frameLitpos f dir)).enqueue (renderEvents f ch dir))
    s

end Sys2Proof.Machine
end

