-- ==== Sys2Proof/Machine/Sequencer.lean ====
section
/-! DEFINITION. The configuration sequencer: the commands UNLOCK and FCLOAD of spec/42_init_sequence.md R150 to R153. -/

namespace Sys2Proof.Machine

/-- `n` clock pulses, each 0→1→0. -/
def clockPulses : Nat → List Event
  | 0 => []
  | n + 1 => .setClock true :: .setClock false :: clockPulses n

/-- `unlock_events`: 15 clock pulses under LATCH, with no SetData event (R150). -/
def unlockEvents : List Event := .setLatch true :: clockPulses unlockClocks ++ [.setLatch false]

/-- `fcload_events`: the high and mid words without a latch, the low word with the 5-clock commit latch (R152). -/
def fcloadEvents (fc : FcWord) : List Event :=
  shiftEvents (fcHigh fc) 0#5 ++ shiftEvents (fcMid fc) 0#5 ++ shiftEvents (fcLow fc) fcCommitLatch

/-- UNLOCK: `Enqueue(unlock_events)` (R151). -/
def execUnlock (s : State) : Host.Outcome State Fault Refusal := accept (State.enqueue unlockEvents) s

/-- FCLOAD: `Enqueue(fcload_events)`, with the FC word read at the accept (R152, R153). -/
def execFcload (s : State) : Host.Outcome State Fault Refusal :=
  accept (fun s => s.enqueue (fcloadEvents s.fc)) s

end Sys2Proof.Machine
end

