-- ==== Sys2Proof/Machine/Dispatch.lean ====
section
/-! DEFINITION. One arm per command: what writing a legal command word to CMD does (spec/30_encoding.md R81). -/

namespace Sys2Proof.Machine

def exec (i : Instr) (s : State) : Host.Outcome State Fault Refusal :=
  match i with
  | .nop => Sys2Proof.Machine.execNop s
  | .setLod value => Sys2Proof.Machine.execSetLod value s
  | .setHold value => Sys2Proof.Machine.execSetHold value s
  | .setGdly value => Sys2Proof.Machine.execSetGdly value s
  | .setAutoref value => Sys2Proof.Machine.execSetAutoref value s
  | .setGsedge value => Sys2Proof.Machine.execSetGsedge value s
  | .setPchg value => Sys2Proof.Machine.execSetPchg value s
  | .setEpwm value => Sys2Proof.Machine.execSetEpwm value s
  | .setBluecomp value => Sys2Proof.Machine.execSetBluecomp value s
  | .setDbledge value => Sys2Proof.Machine.execSetDbledge value s
  | .setLgse1 value => Sys2Proof.Machine.execSetLgse1 value s
  | .setBrb value => Sys2Proof.Machine.execSetBrb value s
  | .setBrg value => Sys2Proof.Machine.execSetBrg value s
  | .setBrr value => Sys2Proof.Machine.execSetBrr value s
  | .setGain value => Sys2Proof.Machine.execSetGain value s
  | .setPoker value => Sys2Proof.Machine.execSetPoker value s
  | .setLgse2 value => Sys2Proof.Machine.execSetLgse2 value s
  | .shift word n => Sys2Proof.Machine.execShift word n s
  | .setdata d => Sys2Proof.Machine.execSetdata d s
  | .unlock => Sys2Proof.Machine.execUnlock s
  | .fcload => Sys2Proof.Machine.execFcload s
  | .render f ch dir => Sys2Proof.Machine.execRender f ch dir s

end Sys2Proof.Machine
end

