-- ==== Sys2Proof/Machine/Port.lean ====
section
/-! DEFINITION. The host port and the turns of the two agents: spec/10_state.md R32 to R37, spec/20_memory.md R52 to
R61, spec/60_exceptions.md R203, R204, spec/70_reset_and_hazards.md R230. -/

namespace Sys2Proof.Machine

/-- `HostWrite(0x00, v)`: decode and accept (R81). A word that is no command sets ERR_ILL and does nothing else (R80);
both it and a command are dropped with ERR_BUSY while busy, since `exec` and this arm present through `State.present`
(R204). -/
def writeCmd (v : Word32) (s : State) : Host.Outcome State Fault Refusal :=
  match decode v with
  | .ok i => exec i s
  | .error _ => accept State.flagIll s

/-- A write to a host register (R32 to R37): CMD and STATUS take it, every other register ignores it. -/
def writeReg (reg : Nat) (v : Word32) (s : State) : Host.Outcome State Fault Refusal :=
  match reg with
  | 0 => writeCmd v s
  | 1 => .next (s.clearErrors v)
  | _ => .next s

/-- One host access, with the priorities of R204: RST discards it (R230), an access that is not an aligned word is
answered with BusError (R203), and then the register acts (R52). -/
def hostAccess (a : Access) (s : State) : Host.Outcome State Fault Refusal :=
  if s.rst then .next (s.respond .discarded)
  else if !a.isAlignedWord then .next (s.raiseBusError a.off)
  else match a.kind with
    | .read => .next (s.respond (.value (s.readReg a.regNumber)))
    | .write v => writeReg a.regNumber v (s.respond .written)

/-- One read of STATUS by the macro WAIT (R83), which stays the host's next action until BUSY reads 0. A read that RST
discards delivers no value, so WAIT goes on (R230). -/
def waitRead (rest : List HostAction) (s : State) : State :=
  if s.rst then s.respond .discarded
  else { s.respond (.value s.statusReg) with host := if s.statusReg.getLsbD 0 then s.host else rest }

/-- The host's turn: its next action, if it has one left (R60, log entry 3). -/
def hostTurn (s : State) : Host.Outcome State Fault Refusal :=
  match s.host with
  | [] => .next s
  | .access a :: rest => hostAccess a { s with host := rest }
  | .wait :: rest => .next (waitRead rest s)

/-- One turn of the schedule (R3, R61, R230). -/
def takeTurn (t : Turn) (s : State) : Host.Outcome State Fault Refusal :=
  match t with
  | .agent .host => hostTurn s
  | .agent .engine => .next (engineStep s)
  | .rst level => .next (s.setRst level)

/-- A turn where the schedule says nothing: the host's while the running gap has not had its free number of turns, then
the engine's, which ends the gap. The number is free and finite, so the interleaving is free and the engine is served
again and again (R61, log entry 1). -/
def freeTurn (s : State) : Turn × State :=
  if s.gapTurns < Config.freeGap s.gapIndex then
    (.agent .host, { s with gapTurns := s.gapTurns + 1 })
  else (.agent .engine, { s with gapIndex := s.gapIndex + 1, gapTurns := 0 })

/-- The turn that the next step takes, and the state with it taken: the schedule's head, or a free turn (R61). -/
def nextTurn (s : State) : Turn × State :=
  match s.turns with
  | t :: ts => (t, { s with turns := ts })
  | [] => freeTurn s

/-- A write of `v` to CMD, as an action of the host (R32). -/
def cmdWrite (v : Word32) : HostAction := .access { off := 0x00#5, width := .word, kind := .write v }

/-- The state in which the block is ready for a command (RST deasserted, no event pending) and the very next step is
the host's write of `v` to CMD. -/
def State.withCommand (v : Word32) (s : State) : State :=
  { s with
    queue := []
    rst := false
    host := cmdWrite v :: s.host
    turns := .agent .host :: s.turns }

end Sys2Proof.Machine
end

