-- ==== Sys2Proof/Machine/Step.lean ====
section
/-! DEFINITION. One step of the machine: one turn of one agent, or a change of the RST input (spec/00_scope.md R3,
spec/20_memory.md R61). -/

namespace Sys2Proof.Machine

/-- One step: the schedule's next turn is taken. The block fetches nothing (R21): a command runs when the host's turn
writes it to CMD. -/
def step (s : State) : Host.Outcome State Fault Refusal :=
  takeTurn (nextTurn s).1 (nextTurn s).2

/-- The state whose very next step is the host's write of this command word to CMD, accepted because the block is ready
for it (log entry 7). -/
def State.withFetchWord (s : State) (nbits w : Nat) : State := s.withCommand (tableWord nbits w)

end Sys2Proof.Machine
end

