-- ==== Sys2Proof/Machine/HostProgram.lean ====
section
/-! DEFINITION. What a host and its platform write down: the decoding of BASE (spec/20_memory.md R51, spec/00_scope.md
R8), the host actions and macros of spec/30_encoding.md R82 and R83, and the init program of
spec/42_init_sequence.md R154. The parameters BASE and BOARD_FC_PRESET are arguments (R8). -/

namespace Sys2Proof.Machine

/-- The platform's decoding of a byte address against BASE, which is 32-byte aligned: the address bits above bit 4
select the window, and bits [4:0] go to the block (R51). No answer: the access does not reach the block. -/
def platformOffset (base addr : Nat) : Option Offset :=
  if addr / 32 = base / 32 then some (BitVec.ofNat 5 addr) else none

/-- The access the block sees when the host accesses a byte address of a platform with its window at BASE. -/
def platformAccess (base addr : Nat) (width : Width) (kind : AccessKind) : Option Access :=
  (platformOffset base addr).map fun off => { off := off, width := width, kind := kind }

/-- The named registers of the window (R31). -/
inductive HostReg where
  | cmd
  | status
  | fcLow
  | fcMid
  | fcHigh
  | result
  | pins
  | reserved
deriving DecidableEq, Repr

/-- The offset of a register (R31). -/
def HostReg.offset : HostReg → Offset
  | .cmd => 0x00#5
  | .status => 0x04#5
  | .fcLow => 0x08#5
  | .fcMid => 0x0C#5
  | .fcHigh => 0x10#5
  | .result => 0x14#5
  | .pins => 0x18#5
  | .reserved => 0x1C#5

/-- `RD reg` (R82). -/
def rd (reg : HostReg) : HostAction := .access { off := reg.offset, width := .word, kind := .read }

/-- `WR reg, v` (R82). -/
def wr (reg : HostReg) (v : Word32) : HostAction := .access { off := reg.offset, width := .word, kind := .write v }

/-- A command line of a host program: the command's word written to CMD (R82). -/
def command (i : Instr) : HostAction := cmdWrite (encode i)

/-- `CLRERR` (R83). -/
def clrerr : HostAction := wr .status 0x6#32

/-- `LATCHWORD word, n` (R83). -/
def latchWord (word : Word) (n : BitVec 5) : HostAction := command (.shift word n)

/-- `RENDER f`, the default pattern: Red at position `k` (R83, R182). -/
def renderDefault (f : Word) : HostAction := command (.render f 2#2 false)

/-- BOARD_FC_PRESET: the sixteen field values a board's init program writes (R8, R154). -/
structure FcPreset where
  lod : Word
  hold : Word
  gdly : Word
  autoref : Word
  gsedge : Word
  pchg : Word
  epwm : Word
  bluecomp : Word
  dbledge : Word
  lgse1 : Word
  brb : Word
  brg : Word
  brr : Word
  gain : Word
  poker : Word
  lgse2 : Word
deriving DecidableEq, Repr

/-- The sixteen setters of the init program, in selector order (R83, R154 step 3). -/
def FcPreset.setters (p : FcPreset) : List Instr :=
  [.setLod p.lod, .setHold p.hold, .setGdly p.gdly, .setAutoref p.autoref, .setGsedge p.gsedge, .setPchg p.pchg,
   .setEpwm p.epwm, .setBluecomp p.bluecomp, .setDbledge p.dbledge, .setLgse1 p.lgse1, .setBrb p.brb, .setBrg p.brg,
   .setBrr p.brr, .setGain p.gain, .setPoker p.poker, .setLgse2 p.lgse2]

/-- `INIT p`, the source's driver initialization sequence as a host program (R83, R154). -/
def initProgram (p : FcPreset) : List HostAction :=
  [command (.setdata true), .wait, command .unlock, .wait] ++ p.setters.map command ++ [command .fcload, .wait]

end Sys2Proof.Machine
end

