-- ==== Sys2Proof/Machine/Waveform.lean ====
section
/-! DEFINITION. What is observed of a run: the waveform of the four lines, its merged form, the rising CLOCK edges and
the windows of LATCH (spec/41_transmitter.md R131), and the final observation (spec/70_reset_and_hazards.md R245). -/

namespace Sys2Proof.Machine

/-- The waveform of an event list from given levels: the vector after every event (R131). -/
def waveform (p : Pins) : List Event → List Pins
  | [] => []
  | e :: es => performEvent p e :: waveform (performEvent p e) es

/-- Consecutive equal vectors merged into one, the vector `p` standing first (R131). -/
def mergeFrom (p : Pins) : List Pins → List Pins
  | [] => [p]
  | q :: qs => if q = p then mergeFrom p qs else p :: mergeFrom q qs

/-- The merged waveform of an event list, from the vector before its first event on. -/
def mergedWaveform (p : Pins) (es : List Event) : List Pins := mergeFrom p (waveform p es)

/-- Two event lists are electrically equivalent from given levels (R11, R131). -/
def electricallyEquivalent (p : Pins) (es fs : List Event) : Bool := mergedWaveform p es == mergedWaveform p fs

/-- The vectors at the rising CLOCK edges of an event list: the events that change CLOCK from 0 to 1. An edge is under
latch when the vector's `latch` is 1 (R131). -/
def risingEdges (p : Pins) : List Event → List Pins
  | [] => []
  | e :: es =>
    (if !p.clock && (performEvent p e).clock then [performEvent p e] else []) ++ risingEdges (performEvent p e) es

/-- How many latch windows an event list opens: the events that change LATCH from 0 to 1 (R13). -/
def latchWindows (p : Pins) : List Event → Nat
  | [] => 0
  | e :: es =>
    (if !p.latch && (performEvent p e).latch then 1 else 0) + latchWindows (performEvent p e) es

/-- The vector the observer saw last: that of the waveform's last entry, or the levels of reset (R131, R231). -/
def lastVector : List WaveStep → Pins
  | [] => Pins.low
  | w :: _ => w.vector

/-- Whether an entry of the waveform is an engine step. -/
def WaveStep.isEvent : WaveStep → Bool
  | .event _ => true
  | .reset => false

/-- The waveform since the last reset, in the order of time (R245). -/
def State.waveSinceReset (s : State) : List Pins := ((s.wave.takeWhile WaveStep.isEvent).map WaveStep.vector).reverse

/-- The final observation of a run (R245). -/
structure Observation where
  fc : FcWord
  pins : Pins
  errIll : Bool
  errBusy : Bool
  resInrange : Bool
  resKidx : BitVec 4
  resLitpos : BitVec 4
  wave : List Pins
deriving DecidableEq, Repr

/-- What is observed of a state (R245). -/
def State.observe (s : State) : Observation :=
  { fc := s.fc
    pins := s.pins
    errIll := s.errIll
    errBusy := s.errBusy
    resInrange := s.resInrange
    resKidx := s.resKidx
    resLitpos := s.resLitpos
    wave := s.waveSinceReset }

end Sys2Proof.Machine
end

