-- ==== Sys2Proof/Safety.lean ====
section
/-! DEFINITION. What counts as a safe and as a finished run, in the terms the statements use: the events each command
causes, the invariant of the machine, the end of a run (spec/70_reset_and_hazards.md R245), and the schedules in which
the engine is served (spec/20_memory.md R61). -/

namespace Sys2Proof.Machine

/-- The pin events of a command accepted with the FC word `fc` (R139, R100, R137, R138, R151, R153, R177). -/
def commandEvents (fc : FcWord) : Instr → List Event
  | .nop => []
  | .setLod _ => []
  | .setHold _ => []
  | .setGdly _ => []
  | .setAutoref _ => []
  | .setGsedge _ => []
  | .setPchg _ => []
  | .setEpwm _ => []
  | .setBluecomp _ => []
  | .setDbledge _ => []
  | .setLgse1 _ => []
  | .setBrb _ => []
  | .setBrg _ => []
  | .setBrr _ => []
  | .setGain _ => []
  | .setPoker _ => []
  | .setLgse2 _ => []
  | .shift word n => shiftEvents word n
  | .setdata d => [.setData d]
  | .unlock => unlockEvents
  | .fcload => fcloadEvents fc
  | .render f ch dir => renderEvents f ch dir

/-- The sixteen setters, the only commands that write `fc` (R24). -/
def isSetter : Instr → Bool
  | .nop => false
  | .setLod _ => true
  | .setHold _ => true
  | .setGdly _ => true
  | .setAutoref _ => true
  | .setGsedge _ => true
  | .setPchg _ => true
  | .setEpwm _ => true
  | .setBluecomp _ => true
  | .setDbledge _ => true
  | .setLgse1 _ => true
  | .setBrb _ => true
  | .setBrg _ => true
  | .setBrr _ => true
  | .setGain _ => true
  | .setPoker _ => true
  | .setLgse2 _ => true
  | .shift _ _ => false
  | .setdata _ => false
  | .unlock => false
  | .fcload => false
  | .render _ _ _ => false

/-- RENDER, the only command that writes the result fields (R28, R178). -/
def isRender : Instr → Bool
  | .nop => false
  | .setLod _ => false
  | .setHold _ => false
  | .setGdly _ => false
  | .setAutoref _ => false
  | .setGsedge _ => false
  | .setPchg _ => false
  | .setEpwm _ => false
  | .setBluecomp _ => false
  | .setDbledge _ => false
  | .setLgse1 _ => false
  | .setBrb _ => false
  | .setBrg _ => false
  | .setBrr _ => false
  | .setGain _ => false
  | .setPoker _ => false
  | .setLgse2 _ => false
  | .shift _ _ => false
  | .setdata _ => false
  | .unlock => false
  | .fcload => false
  | .render _ _ _ => true

/-- Commands accepted one after another, with no engine step between them: enough for the setters, which leave `busy`
0 (R100, R235). -/
def execAll : List Instr → State → Host.Outcome State Fault Refusal
  | [], s => .next s
  | i :: is, s =>
    match exec i s with
    | .next t => execAll is t
    | .fault r => .fault r
    | .refused r => .refused r

/-- The block's own state is at its reset values (R38). -/
structure State.BlockAtReset (s : State) : Prop where
  fc_zero : s.fc = 0x000000000000#48
  pins_low : s.pins = { data := false, clock := false, latch := false, halo := false }
  queue_empty : s.queue = []
  no_err_ill : s.errIll = false
  no_err_busy : s.errBusy = false
  no_inrange : s.resInrange = false
  kidx_zero : s.resKidx = 0#4
  litpos_zero : s.resLitpos = 0#4

/-- The pending events are what is left of the event list of one command (R81, R132). -/
def RestOfOneCommand (q : List Event) : Prop :=
  ∃ (i : Instr) (fc : FcWord), i.wf = true ∧ q <:+ commandEvents fc i

/-- The invariant of the machine: what holds of every state a run reaches from reset. -/
structure State.Inv (s : State) : Prop where
  /-- while RST is asserted the block is at its reset values (R230) -/
  reset_held : s.rst = true → s.BlockAtReset
  /-- the pending events belong to one command (R132) -/
  one_command : RestOfOneCommand s.queue
  /-- once the pending events are performed, CLOCK and LATCH are 0 (R26) -/
  lines_settle : (performEvents s.pins s.queue).clock = false ∧ (performEvents s.pins s.queue).latch = false
  /-- LGSE1 holds one of its four patterns (R115) -/
  lgse1_storable : s.fc.extractLsb' 11 3 ∈ [0b000#3, 0b001#3, 0b100#3, 0b111#3]
  /-- LGSE2 holds one of its four patterns (R121) -/
  lgse2_storable : s.fc.extractLsb' 45 3 ∈ [0b000#3, 0b001#3, 0b101#3, 0b111#3]
  /-- the lit position is the index or its mirror (R171, R177) -/
  result_consistent : s.resLitpos = s.resKidx ∨ s.resLitpos = 15#4 - s.resKidx
  /-- the lines are what the observer saw last (R131, R231) -/
  wave_current : s.pins = lastVector s.wave

/-- A run is over: the host has nothing left to do, no event is pending, RST is not asserted (R245), and no bus fault
was recorded, since a faulted state is never final (R203). -/
structure State.Final (s : State) : Prop where
  host_done : s.host = []
  queue_empty : s.queue = []
  not_in_reset : s.rst = false
  not_faulted : s.busFault = none

/-- No turn of a schedule changes the RST input. -/
def noReset (ts : List Turn) : Bool :=
  ts.all fun t =>
    match t with
    | .agent _ => true
    | .rst _ => false

/-- How many turns of a schedule are the engine's: in a finite stretch of a run. -/
def engineTurns (ts : List Turn) : Nat := ts.countP fun t => t == .agent .engine

/-- A run without end: each state is what a step makes of the one before it. Every step answers a next state, so each
state begins one. -/
def IsRun (r : Nat → State) : Prop := ∀ n, step (r n) = .next (r (n + 1))

/-- The fairness of R61 on a run: while the queue is not empty, the engine eventually takes a step. -/
def EngineFair (r : Nat → State) : Prop :=
  ∀ n, (r n).queue ≠ [] → ∃ m, n ≤ m ∧ (nextTurn (r m)).1 = .agent .engine

/-- Bit `k` of the register at offset `off`, as R32 to R37 lay the registers out. -/
def registerBit (s : State) (off k : Nat) : Bool :=
  match off, k with
  | 0x04, 0 => decide (s.queue ≠ [])
  | 0x04, 1 => s.errIll
  | 0x04, 2 => s.errBusy
  | 0x08, k => decide (k < 16) && s.fc.getLsbD k
  | 0x0C, k => decide (k < 16) && s.fc.getLsbD (16 + k)
  | 0x10, k => decide (k < 16) && s.fc.getLsbD (32 + k)
  | 0x14, 0 => s.resInrange
  | 0x14, k =>
    if 4 ≤ k ∧ k < 8 then s.resKidx.getLsbD (k - 4)
    else if 8 ≤ k ∧ k < 12 then s.resLitpos.getLsbD (k - 8)
    else false
  | 0x18, 0 => s.pins.data
  | 0x18, 1 => s.pins.clock
  | 0x18, 2 => s.pins.latch
  | 0x18, 3 => s.pins.halo
  | _, _ => false

/-- What a setter does when it is accepted, read off the FC word bit by bit: the `w` bits from `lo` up hold the pattern,
every other bit and all other state are as before. -/
def setsBits (i : Instr) (lo w : Nat) (pat : BitVec w) : Prop :=
  ∀ s : State, s.queue = [] →
    ∃ fc' : FcWord,
      exec i s = .next { s with fc := fc' }
        ∧ ∀ k < 48, fc'.getLsbD k = if lo ≤ k ∧ k < lo + w then pat.getLsbD (k - lo) else s.fc.getLsbD k

end Sys2Proof.Machine
end

