-- ==== Sys2Proof/Certificates/Slice0/Obligations.lean ====
section
/-! DEFINITION. The statements for the provers, from the numbered rules of spec/. -/

open Sys2Proof Sys2Proof.Machine

/-! ## Encoding -/

/-- Words written out bit by bit from the formats of R72 to R76 decode to the commands they stand for. -/
def Obligations.WrittenWordsDecode : Prop :=
  decode 0b0000_0000_0000_0000_0000_0000_0000_0000#32 = .ok .nop
    ∧ decode 0b0001_1010_0000_0000_0000_0001_1111_1111#32 = .ok (.setBrb 0x1FF#16)
    ∧ decode 0b0001_1111_0000_0000_0000_0000_0000_0010#32 = .ok (.setLgse2 2#16)
    ∧ decode 0b0010_0000_0000_0011_1010_1100_1101_1100#32 = .ok (.shift 0xACDC#16 3#5)
    ∧ decode 0b0011_0000_0000_0000_0000_0000_0000_0001#32 = .ok (.setdata true)
    ∧ decode 0b0100_0000_0000_0000_0000_0000_0000_0000#32 = .ok .unlock
    ∧ decode 0b0101_0000_0000_0000_0000_0000_0000_0000#32 = .ok .fcload
    ∧ decode 0b0110_0000_0000_0100_0000_0000_0000_0101#32 = .ok (.render 5#16 0#2 true)
    ∧ decode 0b0110_0000_0000_0011_0000_0000_0000_0000#32 = .error .channelThree

/-- R82: every command's word, by the shifts and ors of the table. -/
def Obligations.EncodingIsTheShiftedFields : Prop :=
  encode .nop = 0x00000000#32
    ∧ (∀ (sel : BitVec 4) (value : Word),
        encode (setterOf sel value)
          = (0x1#32 <<< 28) ||| (sel.setWidth 32 <<< 24) ||| value.setWidth 32)
    ∧ (∀ (word : Word) (n : BitVec 5),
        encode (.shift word n) = (0x2#32 <<< 28) ||| (n.setWidth 32 <<< 16) ||| word.setWidth 32)
    ∧ (∀ d : Bool, encode (.setdata d) = (0x3#32 <<< 28) ||| (if d then 1#32 else 0#32))
    ∧ encode .unlock = 0x40000000#32
    ∧ encode .fcload = 0x50000000#32
    ∧ (∀ (f : Word) (ch : BitVec 2) (dir : Bool),
        encode (.render f ch dir)
          = (0x6#32 <<< 28) ||| ((if dir then 1#32 else 0#32) <<< 18) ||| (ch.setWidth 32 <<< 16) ||| f.setWidth 32)

/-- Decoding the word of a well-formed command gives the command back, with every operand. -/
def Obligations.DecodeInvertsEncode : Prop :=
  ∀ i : Instr, i.wf = true → decode (encode i) = .ok i

/-- A word that decodes is the word of its command, so no two words stand for one command. -/
def Obligations.EncodeInvertsDecode : Prop :=
  ∀ (v : Word32) (i : Instr), decode v = .ok i → i.wf = true ∧ encode i = v

/-- R79: the words that decode are exactly the words that match a row of the opcode table in its mask, less RENDER with
ch = 3; they are the words of `legal`. -/
def Obligations.LegalWordsAreTheDecodedWords : Prop :=
  ∀ v : Word32,
    ((∃ i, decode v = .ok i) ↔ legal v = true)
      ∧ (legal v = true ↔
          v = 0x00000000#32 ∨ v = 0x40000000#32 ∨ v = 0x50000000#32
            ∨ v &&& 0xF0FF0000#32 = 0x10000000#32
            ∨ v &&& 0xFFE00000#32 = 0x20000000#32
            ∨ v &&& 0xFFFFFFFE#32 = 0x30000000#32
            ∨ (v &&& 0xFFF80000#32 = 0x60000000#32 ∧ v &&& 0x00030000#32 ≠ 0x00030000#32))

/-! ## The command port -/

/-- R81: when the host's turn comes and its next action writes a word to CMD that decodes to a command, the step is that
command's meaning, in the state with the turn and the action taken and the write answered. -/
def Obligations.StepRunsTheWrittenCommand : Prop :=
  ∀ (s : State) (ts : List Turn) (hs : List HostAction) (v : Word32) (i : Instr),
    s.rst = false → s.turns = .agent .host :: ts → s.host = cmdWrite v :: hs → decode v = .ok i →
      step s = exec i { s with turns := ts, host := hs, resp := some .written }

/-- `withFetchWord` makes the command of a table word the very next step, for a word that decodes (log entry 7). -/
def Obligations.PlacedWordRunsNext : Prop :=
  ∀ (s : State) (w : Nat) (i : Instr), decodeTableWord 32 w = some i →
    step (s.withFetchWord 32 w) = exec i { s with queue := [], rst := false, resp := some .written }

/-- R80: an illegal word written while `busy = 0` sets ERR_ILL and has no other effect on the block; while `busy = 1` the
busy check comes first. The turn, the host's action and the answer are the model's own fields (log entry 2). -/
def Obligations.IllegalWordsOnlySetErrIll : Prop :=
  ∀ (s : State) (ts : List Turn) (hs : List HostAction) (v : Word32),
    s.rst = false → s.turns = .agent .host :: ts → s.host = cmdWrite v :: hs → legal v = false →
      (s.queue = [] →
        step s = .next { s with turns := ts, host := hs, resp := some .written, errIll := true })
      ∧ (s.queue ≠ [] →
        step s = .next { s with turns := ts, host := hs, resp := some .written, errBusy := true })

/-- R202: a CMD write of any word while the queue is not empty sets ERR_BUSY and has no other effect on the block. The
turn, the host's action and the answer are the model's own fields (log entry 2). -/
def Obligations.BusyWritesOnlySetErrBusy : Prop :=
  ∀ (s : State) (ts : List Turn) (hs : List HostAction) (v : Word32),
    s.rst = false → s.turns = .agent .host :: ts → s.host = cmdWrite v :: hs → s.queue ≠ [] →
      step s = .next { s with turns := ts, host := hs, resp := some .written, errBusy := true }

/-- R202 for each command: presented while busy it is dropped, and only ERR_BUSY changes. -/
def Obligations.BusyCommandsAreDropped : Prop :=
  ∀ (i : Instr) (s : State), s.queue ≠ [] → exec i s = .next { s with errBusy := true }

/-! ## Host accesses -/

/-- R53, R203: a byte, halfword or misaligned access is answered with BusError, whether or not the block is busy and
whatever it would read or write. Nothing of the block changes and no value is delivered. That the machine goes on, with
the fault recorded and the state never final, is the model's form of the rule (log entry 4). -/
def Obligations.NonWordAccessesAreBusErrors : Prop :=
  ∀ (s : State) (ts : List Turn) (hs : List HostAction) (a : Access),
    s.rst = false → s.turns = .agent .host :: ts → s.host = .access a :: hs →
      (a.width ≠ .word ∨ a.off.toNat % 4 ≠ 0) →
        step s
            = .next { s with
                turns := ts, host := hs
                resp := some (.fault (.busError a.off)), busFault := some (.busError a.off) }
          ∧ ¬ State.Final { s with
                turns := ts, host := hs
                resp := some (.fault (.busError a.off)), busFault := some (.busError a.off) }

/-- R32 to R37, R54: an aligned word read delivers the register, bit by bit, and changes nothing else. That reserved bits
read 0 is no behaviour to depend on (I6, log entry 13). -/
def Obligations.WordReadsDeliverTheRegister : Prop :=
  ∀ (s : State) (ts : List Turn) (hs : List HostAction) (off : Offset),
    s.rst = false → s.turns = .agent .host :: ts →
      s.host = .access { off := off, width := .word, kind := .read } :: hs → off.toNat % 4 = 0 →
        ∃ v : Word32,
          step s = .next { s with turns := ts, host := hs, resp := some (.value v) }
            ∧ ∀ k < 32, v.getLsbD k = registerBit s off.toNat k

/-- R33: a write to STATUS clears ERR_ILL if its bit 1 is 1 and ERR_BUSY if its bit 2 is 1, busy or not, and changes
nothing else; R34 to R37: a write to any register but CMD and STATUS is ignored. -/
def Obligations.RegisterWritesClearOrAreIgnored : Prop :=
  ∀ (s : State) (ts : List Turn) (hs : List HostAction) (off : Offset) (v : Word32),
    s.rst = false → s.turns = .agent .host :: ts →
      s.host = .access { off := off, width := .word, kind := .write v } :: hs →
        (off = 0x04#5 →
          step s = .next { s with
            turns := ts, host := hs, resp := some .written
            errIll := if v.getLsbD 1 then false else s.errIll
            errBusy := if v.getLsbD 2 then false else s.errBusy })
        ∧ (off.toNat % 4 = 0 → 0x08 ≤ off.toNat →
          step s = .next { s with turns := ts, host := hs, resp := some .written })

/-- R83: WAIT reads STATUS, and the host goes on exactly when BUSY reads 0. -/
def Obligations.WaitEndsWhenNotBusy : Prop :=
  ∀ (s : State) (ts : List Turn) (hs : List HostAction),
    s.rst = false → s.turns = .agent .host :: ts → s.host = .wait :: hs →
      step s = .next { s with
        turns := ts
        host := if s.queue = [] then hs else .wait :: hs
        resp := some (.value (s.readReg 1)) }

/-- R51: a window at an aligned BASE is the byte addresses BASE to BASE+0x1F, and the block gets the distance from BASE.
That BASE is a multiple of 32 is the model's reading (log entry 14). -/
def Obligations.WindowIsThirtyTwoBytesAtBase : Prop :=
  ∀ (base addr : Nat) (off : Offset), base % 32 = 0 →
    (platformOffset base addr = some off ↔ base ≤ addr ∧ addr ≤ base + 0x1F ∧ off.toNat = addr - base)

/-! ## Reset -/

/-- R38: after reset every piece of the block's state holds the value of the table. -/
def Obligations.ResetHoldsTheTableValues : Prop :=
  State.reset.fc = 0x000000000000#48
    ∧ State.reset.pins = { data := false, clock := false, latch := false, halo := false }
    ∧ State.reset.errIll = false ∧ State.reset.errBusy = false
    ∧ State.reset.resInrange = false ∧ State.reset.resKidx = 0#4 ∧ State.reset.resLitpos = 0#4
    ∧ State.reset.queue = [] ∧ State.reset.busy = false

/-- R230 to R232: an assertion of RST puts the block at its reset values, whatever it was doing, drops every pending
event, and appears in the waveform as one step to (0,0,0,0); the values are those of R38. That a second assertion adds no
step, and that RST comes as a turn of the schedule, is the model's choice (log entry 5); so is that the record of a bus
fault survives it (log entry 4) and that the waveform and the host's actions are fields of State (log entries 8, 2). -/
def Obligations.AssertingRstResetsTheBlock : Prop :=
  ∀ (s : State) (ts : List Turn), s.turns = .rst true :: ts →
    ∃ t, step s = .next t ∧ t.BlockAtReset ∧ t.rst = true ∧ t.turns = ts ∧ t.host = s.host
      ∧ t.busFault = s.busFault
      ∧ (s.rst = false → t.wave = .reset :: s.wave)
      ∧ (t.wave ≠ s.wave → lastVector t.wave = { data := false, clock := false, latch := false, halo := false })

/-- R230: while RST is asserted the block holds, the engine takes no step and a host access is discarded with no effect;
when RST is deasserted the block starts from the state it was held in. What the host sees of a discarded access is the
model's choice (log entry 5). -/
def Obligations.RstHoldsTheBlock : Prop :=
  ∀ (s : State) (ts : List Turn), s.rst = true →
    (s.turns = .agent .engine :: ts → step s = .next { s with turns := ts })
      ∧ (∀ (a : Access) (hs : List HostAction), s.turns = .agent .host :: ts → s.host = .access a :: hs →
          step s = .next { s with turns := ts, host := hs, resp := some .discarded })
      ∧ (∀ hs : List HostAction, s.turns = .agent .host :: ts → s.host = .wait :: hs →
          step s = .next { s with turns := ts, resp := some .discarded })
      ∧ (s.turns = .rst false :: ts → step s = .next { s with turns := ts, rst := false })

/-! ## The engine -/

/-- R130: the engine's step performs the head of the queue, which writes its own line and no other, and takes it off the
queue; with an empty queue the engine is not enabled. That its turn then changes nothing but the schedule is the model's
choice (log entry 3), and so is the record of the waveform in State (R131, log entry 8). -/
def Obligations.EngineStepPerformsTheHead : Prop :=
  ∀ (s : State) (ts : List Turn) (b : Bool) (rest : List Event),
    s.rst = false → s.turns = .agent .engine :: ts →
      (s.queue = [] → step s = .next { s with turns := ts })
      ∧ (s.queue = .setData b :: rest →
          step s = .next { s with
            turns := ts, queue := rest, pins := { s.pins with data := b }
            wave := .event { s.pins with data := b } :: s.wave })
      ∧ (s.queue = .setClock b :: rest →
          step s = .next { s with
            turns := ts, queue := rest, pins := { s.pins with clock := b }
            wave := .event { s.pins with clock := b } :: s.wave })
      ∧ (s.queue = .setLatch b :: rest →
          step s = .next { s with
            turns := ts, queue := rest, pins := { s.pins with latch := b }
            wave := .event { s.pins with latch := b } :: s.wave })
      ∧ (s.queue = .setHalo b :: rest →
          step s = .next { s with
            turns := ts, queue := rest, pins := { s.pins with halo := b }
            wave := .event { s.pins with halo := b } :: s.wave })

/-- R130 to R132: turns of the engine perform the pending events in queue order, one a turn, and the waveform records
the vector after each. -/
def Obligations.EngineRunPerformsEventsInOrder : Prop :=
  ∀ (k : Nat) (s : State) (ts : List Turn),
    s.rst = false → s.turns = List.replicate k (.agent .engine) ++ ts → k ≤ s.queue.length →
      Host.Core.run Sys2Proof.core k s
        = .next { s with
            turns := ts
            pins := performEvents s.pins (s.queue.take k)
            queue := s.queue.drop k
            wave := ((waveform s.pins (s.queue.take k)).map WaveStep.event).reverse ++ s.wave }

/-- R61, R62: in a schedule that does not touch RST and serves the engine at least as often as there are events pending,
the queue becomes empty, however the host's turns lie between the engine's. -/
def Obligations.ServedEngineEmptiesTheQueue : Prop :=
  ∀ (s : State) (ts rest : List Turn),
    s.rst = false → s.turns = ts ++ rest → noReset ts = true → s.queue.length ≤ engineTurns ts →
      ∃ (k : Nat) (t : State), k ≤ ts.length ∧ Host.Core.run Sys2Proof.core k s = .next t ∧ t.queue = []

/-- R131: an event that writes the level its line already holds is invisible on the wires. -/
def Obligations.RedundantEventsAreInvisible : Prop :=
  ∀ (p : Pins) (es fs : List Event) (e : Event),
    performEvent (performEvents p es) e = performEvents p es →
      electricallyEquivalent p (es ++ e :: fs) (es ++ fs) = true

/-! ## The register codec -/

/-- R102, R108 to R114, R120: a boolean setter stores 1 for every nonzero operand and 0 for operand 0, in its one bit. -/
def Obligations.BooleanSettersStoreNonzero : Prop :=
  ∀ value : Word,
    setsBits (.setGdly value) 4 1 (BitVec.ofBool (decide (value.toNat ≠ 0)))
      ∧ setsBits (.setAutoref value) 5 1 (BitVec.ofBool (decide (value.toNat ≠ 0)))
      ∧ setsBits (.setGsedge value) 6 1 (BitVec.ofBool (decide (value.toNat ≠ 0)))
      ∧ setsBits (.setPchg value) 7 1 (BitVec.ofBool (decide (value.toNat ≠ 0)))
      ∧ setsBits (.setEpwm value) 8 1 (BitVec.ofBool (decide (value.toNat ≠ 0)))
      ∧ setsBits (.setBluecomp value) 9 1 (BitVec.ofBool (decide (value.toNat ≠ 0)))
      ∧ setsBits (.setDbledge value) 10 1 (BitVec.ofBool (decide (value.toNat ≠ 0)))
      ∧ setsBits (.setPoker value) 44 1 (BitVec.ofBool (decide (value.toNat ≠ 0)))

/-- R103, R106, R107, R119: SET_LOD and SET_HOLD store their operand below 4, SET_GAIN below 8, and FC_ENUM_DEFAULT from
there up. -/
def Obligations.IdentityEnumSettersStoreTheIndex : Prop :=
  ∀ value : Word,
    setsBits (.setLod value) 0 2 (if value.toNat < 4 then BitVec.ofNat 2 value.toNat
        else BitVec.ofNat 2 (fcEnumDefault .lod))
      ∧ setsBits (.setHold value) 2 2 (if value.toNat < 4 then BitVec.ofNat 2 value.toNat
        else BitVec.ofNat 2 (fcEnumDefault .hold))
      ∧ setsBits (.setGain value) 41 3 (if value.toNat < 8 then BitVec.ofNat 3 value.toNat
        else BitVec.ofNat 3 (fcEnumDefault .gain))

/-- R103, R115, R121: SET_LGSE1 and SET_LGSE2 store the pattern that their table lists at the operand below 4, and
FC_ENUM_DEFAULT from there up. -/
def Obligations.TableEnumSettersStoreTheListedPattern : Prop :=
  ∀ value : Word,
    setsBits (.setLgse1 value) 11 3
        (if value.toNat = 0 then 0b000#3 else if value.toNat = 1 then 0b001#3
          else if value.toNat = 2 then 0b100#3 else if value.toNat = 3 then 0b111#3
          else BitVec.ofNat 3 (fcEnumDefault .lgse1))
      ∧ setsBits (.setLgse2 value) 45 3
        (if value.toNat = 0 then 0b000#3 else if value.toNat = 1 then 0b001#3
          else if value.toNat = 2 then 0b101#3 else if value.toNat = 3 then 0b111#3
          else BitVec.ofNat 3 (fcEnumDefault .lgse2))

/-- R104, R116 to R118: a brightness setter stores its operand truncated to nine bits. -/
def Obligations.BrightnessSettersTruncateToNineBits : Prop :=
  ∀ value : Word,
    setsBits (.setBrb value) 14 9 (BitVec.ofNat 9 (value.toNat % 512))
      ∧ setsBits (.setBrg value) 23 9 (BitVec.ofNat 9 (value.toNat % 512))
      ∧ setsBits (.setBrr value) 32 9 (BitVec.ofNat 9 (value.toNat % 512))

/-- R105: setters of different fields commute. -/
def Obligations.SettersOfDifferentFieldsCommute : Prop :=
  ∀ (sel1 sel2 : BitVec 4) (v1 v2 : Word) (s : State), sel1 ≠ sel2 → s.queue = [] →
    ∃ t : State,
      execAll [setterOf sel1 v1, setterOf sel2 v2] s = .next t
        ∧ execAll [setterOf sel2 v2, setterOf sel1 v1] s = .next t

/-- R105: a setter of one field overwrites an earlier setter of the same field, so two equal ones leave `fc` as one
does. -/
def Obligations.LastSetterOfAFieldWins : Prop :=
  ∀ (sel : BitVec 4) (v1 v2 : Word) (s : State), s.queue = [] →
    execAll [setterOf sel v1, setterOf sel v2] s = exec (setterOf sel v2) s

/-- R105, total cover: after all sixteen setters the FC word does not depend on what it was. -/
def Obligations.SixteenSettersDetermineTheFcWord : Prop :=
  ∀ (p : FcPreset) (s1 s2 : State), s1.queue = [] → s2.queue = [] →
    ∃ t1 t2 : State,
      execAll p.setters s1 = .next t1 ∧ execAll p.setters s2 = .next t2 ∧ t1.fc = t2.fc

/-! ## The transmitter and the sequencer -/

/-- R139: NOP has no effect. -/
def Obligations.NopChangesNothing : Prop :=
  ∀ s : State, s.queue = [] → exec .nop s = .next s

/-- R138: SETDATA queues its one event and changes nothing else. -/
def Obligations.SetdataQueuesOneEvent : Prop :=
  ∀ (d : Bool) (s : State), s.queue = [] → exec (.setdata d) s = .next { s with queue := [.setData d] }

/-- R133, R137: SHIFT queues the bits 15 down to 0 of its word, each with LATCH raised first if its number is below the
latch count, then the data, then a clock pulse, and at the end LATCH low; it changes nothing else. -/
def Obligations.ShiftQueuesTheWordMsbFirst : Prop :=
  ∀ (word : Word) (n : BitVec 5) (s : State), s.queue = [] →
    exec (.shift word n) s
      = .next { s with
          queue :=
            ([15, 14, 13, 12, 11, 10, 9, 8, 7, 6, 5, 4, 3, 2, 1, 0].map fun i =>
                if i < n.toNat then
                  [Event.setLatch true, .setData (word.getLsbD i), .setClock true, .setClock false]
                else [Event.setData (word.getLsbD i), .setClock true, .setClock false]).flatten
              ++ [.setLatch false] }

/-- R134, R141: from CLOCK and LATCH low, a SHIFT makes exactly 16 rising edges, the j-th sampling bit 16-j, with the
last min(n,16) of them under latch, in 49 + min(n,16) events, and ends with DATA at bit 0, CLOCK and LATCH low. -/
def Obligations.ShiftWaveformHasSixteenEdges : Prop :=
  ∀ (word : Word) (n : BitVec 5) (s : State), s.queue = [] → s.pins.clock = false → s.pins.latch = false →
    ∃ t : State,
      exec (.shift word n) s = .next t
        ∧ t.queue.length = 49 + min n.toNat 16
        ∧ risingEdges s.pins t.queue
            = (List.range 16).map (fun j =>
                { data := word.getLsbD (15 - j), clock := true, latch := decide (16 ≤ j + n.toNat)
                  halo := s.pins.halo })
        ∧ performEvents s.pins t.queue
            = { data := word.getLsbD 0, clock := false, latch := false, halo := s.pins.halo }

/-- R150, R151: UNLOCK queues 32 events, LATCH high, 15 clock pulses, LATCH low, with no event on DATA, and changes
nothing else; its 15 rising edges are all under latch. -/
def Obligations.UnlockQueuesFifteenPulsesUnderLatch : Prop :=
  ∀ s : State, s.queue = [] →
    ∃ es : List Event,
      exec .unlock s = .next { s with queue := es }
        ∧ es = Event.setLatch true :: (List.replicate 15 [Event.setClock true, .setClock false]).flatten
            ++ [.setLatch false]
        ∧ es.length = 32
        ∧ (s.pins.clock = false →
            risingEdges s.pins es = List.replicate 15 { s.pins with clock := true, latch := true })

/-- R58, R152, R153: FCLOAD queues 152 events and changes nothing else; from CLOCK and LATCH low they make 48 rising
edges that sample fc[47] down to fc[0], the last five under latch, and end with DATA at fc[0]. -/
def Obligations.FcloadStreamsTheFcWordMsbFirst : Prop :=
  ∀ s : State, s.queue = [] →
    ∃ es : List Event,
      exec .fcload s = .next { s with queue := es }
        ∧ es.length = 152
        ∧ (s.pins.clock = false → s.pins.latch = false →
            risingEdges s.pins es
                = (List.range 48).map (fun j =>
                    { data := s.fc.getLsbD (47 - j), clock := true, latch := decide (43 ≤ j), halo := s.pins.halo })
              ∧ performEvents s.pins es
                = { data := s.fc.getLsbD 0, clock := false, latch := false, halo := s.pins.halo })

/-! ## The frame streamer -/

/-- R170, R171, R177, R178: RENDER of a channel 0 to 2 writes the result at its accept, queues 2372 events of which the
first sets HALO_EN low and the last sets it high, and changes nothing else. -/
def Obligations.RenderWritesResultAndQueuesTheFrame : Prop :=
  ∀ (f : Word) (ch : BitVec 2) (dir : Bool) (s : State), s.queue = [] → ch.toNat < 3 →
    ∃ (k l : BitVec 4) (body : List Event),
      exec (.render f ch dir) s
          = .next { s with
              resInrange := decide (f.toNat < 16), resKidx := k, resLitpos := l
              queue := Event.setHalo false :: body ++ [.setHalo true] }
        ∧ k.toNat = f.toNat % 16
        ∧ l.toNat = (if dir then 15 - f.toNat % 16 else f.toNat % 16)
        ∧ body.length = 2370

/-- R79, R201: RENDER with ch = 3 is illegal: presented to an idle block it sets ERR_ILL and does nothing else. The
decoder yields no such command, so that `exec` has a meaning for it at all is the model's choice (log entry 11). -/
def Obligations.RenderOfChannelThreeIsIllegal : Prop :=
  ∀ (f : Word) (dir : Bool) (s : State), s.queue = [] →
    exec (.render f 3#2 dir) s = .next { s with errIll := true }

/-- R172 to R176, R179, R183: from CLOCK and LATCH low, a RENDER makes 768 rising edges with HALO_EN low at every one.
DATA is 1 exactly at the 16 edges of stream word 3·(15 − litpos) + ch. An edge is under latch exactly when it is the
last of a position's Red word, or one of the last three of the frame. LATCH opens 16 windows. The frame ends with
HALO_EN high, CLOCK and LATCH low, and DATA 1 only if position 0's Red word was the lit one. -/
def Obligations.RenderWaveformLightsOneWord : Prop :=
  ∀ (f : Word) (ch : BitVec 2) (dir : Bool) (s : State), s.queue = [] → ch.toNat < 3 →
    s.pins.clock = false → s.pins.latch = false →
      ∃ t : State,
        exec (.render f ch dir) s = .next t
          ∧ risingEdges s.pins t.queue
              = (List.range 768).map (fun j =>
                  { data := decide (j / 16 = 3 * (15 - (if dir then 15 - f.toNat % 16 else f.toNat % 16)) + ch.toNat)
                    clock := true
                    latch := decide ((j + 1) % 48 = 0 ∨ 766 ≤ j + 1)
                    halo := false })
          ∧ latchWindows s.pins t.queue = 16
          ∧ performEvents s.pins t.queue
              = { data := decide ((if dir then 15 - f.toNat % 16 else f.toNat % 16) = 0 ∧ ch.toNat = 2)
                  clock := false, latch := false, halo := true }

/-- R244: how many events each command queues when it is accepted. -/
def Obligations.EventCountsOfTheCommands : Prop :=
  ∀ (fc : FcWord) (i : Instr), i.wf = true →
    (commandEvents fc i).length
        = (match i with
          | .shift _ n => 49 + min n.toNat 16
          | .setdata _ => 1
          | .unlock => 32
          | .fcload => 152
          | .render _ _ _ => 2372
          | _ => 0)

/-! ## Frames, and the machine as a whole -/

/-- The frame of every command: a setter changes only `fc`; NOP, SHIFT, SETDATA, UNLOCK and FCLOAD change only the
queue; RENDER changes only the queue and the result; presented while busy, a command changes only ERR_BUSY. No command
touches the pins, the RST input, the host's actions, the schedule or the waveform (R25, R81, R100, R178). -/
def Obligations.CommandsChangeOnlyTheirOwnState : Prop :=
  ∀ (i : Instr) (s t : State), i.wf = true → exec i s = .next t →
    t.pins = s.pins ∧ t.errIll = s.errIll ∧ t.rst = s.rst ∧ t.host = s.host ∧ t.resp = s.resp
      ∧ t.busFault = s.busFault ∧ t.turns = s.turns ∧ t.gapIndex = s.gapIndex ∧ t.gapTurns = s.gapTurns
      ∧ t.wave = s.wave
      ∧ (isSetter i = false → t.fc = s.fc)
      ∧ (isRender i = false →
          t.resInrange = s.resInrange ∧ t.resKidx = s.resKidx ∧ t.resLitpos = s.resLitpos)
      ∧ (s.queue = [] → t.errBusy = s.errBusy ∧ t.queue = commandEvents s.fc i)
      ∧ (s.queue ≠ [] →
          t.errBusy = true ∧ t.queue = s.queue ∧ t.fc = s.fc
            ∧ t.resInrange = s.resInrange ∧ t.resKidx = s.resKidx ∧ t.resLitpos = s.resLitpos)

/-- R216: no command reads an error bit. With other error bits a command does the same to everything else: accepted, it
leaves the error bits as they are; dropped because events are pending, it sets ERR_BUSY and leaves ERR_ILL. -/
def Obligations.CommandsDoNotReadErrorBits : Prop :=
  ∀ (i : Instr) (s t : State) (ill busy : Bool), i.wf = true → exec i s = .next t →
    exec i { s with errIll := ill, errBusy := busy }
      = .next { t with errIll := ill, errBusy := if s.queue = [] then busy else true }

/-- R200, R205: no error of the block and no access stops the machine: every step answers a next state. That a bus fault
is recorded and the machine goes on is the model's choice (log entry 4). -/
def Obligations.EveryStepAnswersNext : Prop :=
  ∀ s : State, ∃ t : State, step s = .next t

/-- R24: `fc` changes only by a reset or by a setter that the host writes to CMD while the block is idle. -/
def Obligations.OnlySettersAndResetChangeFc : Prop :=
  ∀ s t : State, step s = .next t → t.fc ≠ s.fc →
    (nextTurn s).1 = .rst true
      ∨ ((nextTurn s).1 = .agent .host ∧ s.rst = false ∧ s.queue = []
          ∧ ∃ (v : Word32) (i : Instr) (hs : List HostAction),
              s.host = cmdWrite v :: hs ∧ decode v = .ok i ∧ isSetter i = true)

/-- R178: the result changes only by a reset or by a RENDER that the host writes to CMD while the block is idle. -/
def Obligations.OnlyRenderAndResetChangeTheResult : Prop :=
  ∀ s t : State, step s = .next t →
    (t.resInrange ≠ s.resInrange ∨ t.resKidx ≠ s.resKidx ∨ t.resLitpos ≠ s.resLitpos) →
      (nextTurn s).1 = .rst true
        ∨ ((nextTurn s).1 = .agent .host ∧ s.rst = false ∧ s.queue = []
            ∧ ∃ (v : Word32) (i : Instr) (hs : List HostAction),
                s.host = cmdWrite v :: hs ∧ decode v = .ok i ∧ isRender i = true)

/-- R25: the pins change only by a reset or by the engine performing the pin event at the head of the queue. -/
def Obligations.OnlyEventsAndResetChangeThePins : Prop :=
  ∀ s t : State, step s = .next t → t.pins ≠ s.pins →
    (nextTurn s).1 = .rst true
      ∨ ((nextTurn s).1 = .agent .engine
          ∧ ∃ (e : Event) (rest : List Event), s.queue = e :: rest ∧ t.queue = rest ∧ t.pins = performEvent s.pins e)

/-- R206: an error bit that is 1 stays 1 until the block is reset or the host writes a 1 to its bit of STATUS. -/
def Obligations.ErrorBitsAreSticky : Prop :=
  ∀ s t : State, step s = .next t →
    (s.errIll = true → t.errIll = false →
      (nextTurn s).1 = .rst true
        ∨ ((nextTurn s).1 = .agent .host
            ∧ ∃ (v : Word32) (hs : List HostAction), s.host = wr .status v :: hs ∧ v.getLsbD 1 = true))
    ∧ (s.errBusy = true → t.errBusy = false →
      (nextTurn s).1 = .rst true
        ∨ ((nextTurn s).1 = .agent .host
            ∧ ∃ (v : Word32) (hs : List HostAction), s.host = wr .status v :: hs ∧ v.getLsbD 2 = true))

/-- R204: one access sets at most one error bit, and a word written while busy never sets ERR_ILL. -/
def Obligations.OneAccessSetsAtMostOneErrorBit : Prop :=
  ∀ s t : State, step s = .next t →
    (s.errIll = false → t.errIll = true → t.errBusy = s.errBusy ∧ s.queue = [])
      ∧ (s.errBusy = false → t.errBusy = true → t.errIll = s.errIll ∧ s.queue ≠ [])

/-- R132, R184: while events are pending nothing but a reset disturbs them: every other step leaves the queue and the
pins alone, or performs the queue's head. A reset drops them all. -/
def Obligations.NothingButResetInterruptsACommand : Prop :=
  ∀ (s t : State) (e : Event) (rest : List Event), step s = .next t → s.queue = e :: rest →
    ((nextTurn s).1 = .rst true → t.queue = [])
      ∧ ((nextTurn s).1 ≠ .rst true →
          (t.queue = s.queue ∧ t.pins = s.pins) ∨ (t.queue = rest ∧ t.pins = performEvent s.pins e))

/-- The invariant holds right after reset. -/
def Obligations.ResetMeetsTheInvariant : Prop := State.reset.Inv

/-- Every step keeps the invariant: the pending events are the rest of one command's list, and once they are performed
CLOCK and LATCH are 0 (R26, R132); LGSE1 and LGSE2 hold patterns of their tables (R115, R121); the lit position fits the
index (R171); the lines are what the observer saw last (R131, R231); and RST holds the block at reset (R230). -/
def Obligations.EveryStepKeepsTheInvariant : Prop :=
  ∀ s t : State, s.Inv → step s = .next t → t.Inv

/-- R26, R30: in a state that meets the invariant, CLOCK and LATCH are 0 whenever the queue is empty, and the queue is
never longer than a RENDER list. -/
def Obligations.InvariantBoundsTheQueueAndTheLines : Prop :=
  ∀ s : State, s.Inv →
    s.queue.length ≤ 2372 ∧ (s.queue = [] → s.pins.clock = false ∧ s.pins.latch = false)

/-! ## Fairness -/

/-- R61, fairness: on every run without end, while the queue is not empty the engine eventually takes a step. That every
run is fair because a written schedule ends and the free gaps after it are finite is the model's form of the rule (log
entry 1). -/
def Obligations.EveryRunIsFair : Prop :=
  ∀ r : Nat → State, IsRun r → EngineFair r

/-- R61, R62: in every state outside reset whose schedule does not touch RST, whatever the host does, the pending events
are all performed, in order and with no other event between them, and the queue becomes empty. Nothing is assumed of how
often the engine is served. -/
def Obligations.PendingEventsAreAllPerformed : Prop :=
  ∀ s : State, s.rst = false → noReset s.turns = true →
    ∃ (k : Nat) (t : State),
      Host.Core.run Sys2Proof.core k s = .next t ∧ t.queue = []
        ∧ t.pins = performEvents s.pins s.queue
        ∧ t.wave = ((waveform s.pins s.queue).map WaveStep.event).reverse ++ s.wave
end

