-- ==== Sys2Proof/Laws/State.lean ====
section
/-! SUPPORT. What each update of the state does to each field: one lemma a field and an update, all true by rfl, so that
no proof unfolds a record update. -/

namespace Sys2Proof.Machine

/-! ### flagIll -/

@[simp] theorem State.flagIll_fc (s : State) : s.flagIll.fc = s.fc := rfl
@[simp] theorem State.flagIll_pins (s : State) : s.flagIll.pins = s.pins := rfl
@[simp] theorem State.flagIll_queue (s : State) : s.flagIll.queue = s.queue := rfl
@[simp] theorem State.flagIll_errIll (s : State) : s.flagIll.errIll = true := rfl
@[simp] theorem State.flagIll_errBusy (s : State) : s.flagIll.errBusy = s.errBusy := rfl
@[simp] theorem State.flagIll_resInrange (s : State) : s.flagIll.resInrange = s.resInrange := rfl
@[simp] theorem State.flagIll_resKidx (s : State) : s.flagIll.resKidx = s.resKidx := rfl
@[simp] theorem State.flagIll_resLitpos (s : State) : s.flagIll.resLitpos = s.resLitpos := rfl
@[simp] theorem State.flagIll_rst (s : State) : s.flagIll.rst = s.rst := rfl
@[simp] theorem State.flagIll_host (s : State) : s.flagIll.host = s.host := rfl
@[simp] theorem State.flagIll_resp (s : State) : s.flagIll.resp = s.resp := rfl
@[simp] theorem State.flagIll_busFault (s : State) : s.flagIll.busFault = s.busFault := rfl
@[simp] theorem State.flagIll_turns (s : State) : s.flagIll.turns = s.turns := rfl
@[simp] theorem State.flagIll_gapIndex (s : State) : s.flagIll.gapIndex = s.gapIndex := rfl
@[simp] theorem State.flagIll_gapTurns (s : State) : s.flagIll.gapTurns = s.gapTurns := rfl
@[simp] theorem State.flagIll_wave (s : State) : s.flagIll.wave = s.wave := rfl

/-! ### flagBusy -/

@[simp] theorem State.flagBusy_fc (s : State) : s.flagBusy.fc = s.fc := rfl
@[simp] theorem State.flagBusy_pins (s : State) : s.flagBusy.pins = s.pins := rfl
@[simp] theorem State.flagBusy_queue (s : State) : s.flagBusy.queue = s.queue := rfl
@[simp] theorem State.flagBusy_errIll (s : State) : s.flagBusy.errIll = s.errIll := rfl
@[simp] theorem State.flagBusy_errBusy (s : State) : s.flagBusy.errBusy = true := rfl
@[simp] theorem State.flagBusy_resInrange (s : State) : s.flagBusy.resInrange = s.resInrange := rfl
@[simp] theorem State.flagBusy_resKidx (s : State) : s.flagBusy.resKidx = s.resKidx := rfl
@[simp] theorem State.flagBusy_resLitpos (s : State) : s.flagBusy.resLitpos = s.resLitpos := rfl
@[simp] theorem State.flagBusy_rst (s : State) : s.flagBusy.rst = s.rst := rfl
@[simp] theorem State.flagBusy_host (s : State) : s.flagBusy.host = s.host := rfl
@[simp] theorem State.flagBusy_resp (s : State) : s.flagBusy.resp = s.resp := rfl
@[simp] theorem State.flagBusy_busFault (s : State) : s.flagBusy.busFault = s.busFault := rfl
@[simp] theorem State.flagBusy_turns (s : State) : s.flagBusy.turns = s.turns := rfl
@[simp] theorem State.flagBusy_gapIndex (s : State) : s.flagBusy.gapIndex = s.gapIndex := rfl
@[simp] theorem State.flagBusy_gapTurns (s : State) : s.flagBusy.gapTurns = s.gapTurns := rfl
@[simp] theorem State.flagBusy_wave (s : State) : s.flagBusy.wave = s.wave := rfl

/-! ### clearErrors -/

@[simp] theorem State.clearErrors_fc (s : State) (v : Word32) : (s.clearErrors v).fc = s.fc := rfl
@[simp] theorem State.clearErrors_pins (s : State) (v : Word32) : (s.clearErrors v).pins = s.pins := rfl
@[simp] theorem State.clearErrors_queue (s : State) (v : Word32) : (s.clearErrors v).queue = s.queue := rfl
@[simp] theorem State.clearErrors_errIll (s : State) (v : Word32) : (s.clearErrors v).errIll = (s.errIll && !v.getLsbD 1) := rfl
@[simp] theorem State.clearErrors_errBusy (s : State) (v : Word32) : (s.clearErrors v).errBusy = (s.errBusy && !v.getLsbD 2) := rfl
@[simp] theorem State.clearErrors_resInrange (s : State) (v : Word32) : (s.clearErrors v).resInrange = s.resInrange := rfl
@[simp] theorem State.clearErrors_resKidx (s : State) (v : Word32) : (s.clearErrors v).resKidx = s.resKidx := rfl
@[simp] theorem State.clearErrors_resLitpos (s : State) (v : Word32) : (s.clearErrors v).resLitpos = s.resLitpos := rfl
@[simp] theorem State.clearErrors_rst (s : State) (v : Word32) : (s.clearErrors v).rst = s.rst := rfl
@[simp] theorem State.clearErrors_host (s : State) (v : Word32) : (s.clearErrors v).host = s.host := rfl
@[simp] theorem State.clearErrors_resp (s : State) (v : Word32) : (s.clearErrors v).resp = s.resp := rfl
@[simp] theorem State.clearErrors_busFault (s : State) (v : Word32) : (s.clearErrors v).busFault = s.busFault := rfl
@[simp] theorem State.clearErrors_turns (s : State) (v : Word32) : (s.clearErrors v).turns = s.turns := rfl
@[simp] theorem State.clearErrors_gapIndex (s : State) (v : Word32) : (s.clearErrors v).gapIndex = s.gapIndex := rfl
@[simp] theorem State.clearErrors_gapTurns (s : State) (v : Word32) : (s.clearErrors v).gapTurns = s.gapTurns := rfl
@[simp] theorem State.clearErrors_wave (s : State) (v : Word32) : (s.clearErrors v).wave = s.wave := rfl

/-! ### enqueue -/

@[simp] theorem State.enqueue_fc (s : State) (es : List Event) : (s.enqueue es).fc = s.fc := rfl
@[simp] theorem State.enqueue_pins (s : State) (es : List Event) : (s.enqueue es).pins = s.pins := rfl
@[simp] theorem State.enqueue_queue (s : State) (es : List Event) : (s.enqueue es).queue = es := rfl
@[simp] theorem State.enqueue_errIll (s : State) (es : List Event) : (s.enqueue es).errIll = s.errIll := rfl
@[simp] theorem State.enqueue_errBusy (s : State) (es : List Event) : (s.enqueue es).errBusy = s.errBusy := rfl
@[simp] theorem State.enqueue_resInrange (s : State) (es : List Event) : (s.enqueue es).resInrange = s.resInrange := rfl
@[simp] theorem State.enqueue_resKidx (s : State) (es : List Event) : (s.enqueue es).resKidx = s.resKidx := rfl
@[simp] theorem State.enqueue_resLitpos (s : State) (es : List Event) : (s.enqueue es).resLitpos = s.resLitpos := rfl
@[simp] theorem State.enqueue_rst (s : State) (es : List Event) : (s.enqueue es).rst = s.rst := rfl
@[simp] theorem State.enqueue_host (s : State) (es : List Event) : (s.enqueue es).host = s.host := rfl
@[simp] theorem State.enqueue_resp (s : State) (es : List Event) : (s.enqueue es).resp = s.resp := rfl
@[simp] theorem State.enqueue_busFault (s : State) (es : List Event) : (s.enqueue es).busFault = s.busFault := rfl
@[simp] theorem State.enqueue_turns (s : State) (es : List Event) : (s.enqueue es).turns = s.turns := rfl
@[simp] theorem State.enqueue_gapIndex (s : State) (es : List Event) : (s.enqueue es).gapIndex = s.gapIndex := rfl
@[simp] theorem State.enqueue_gapTurns (s : State) (es : List Event) : (s.enqueue es).gapTurns = s.gapTurns := rfl
@[simp] theorem State.enqueue_wave (s : State) (es : List Event) : (s.enqueue es).wave = s.wave := rfl

/-! ### writeFc -/

@[simp] theorem State.writeFc_fc (s : State) (fc : FcWord) : (s.writeFc fc).fc = fc := rfl
@[simp] theorem State.writeFc_pins (s : State) (fc : FcWord) : (s.writeFc fc).pins = s.pins := rfl
@[simp] theorem State.writeFc_queue (s : State) (fc : FcWord) : (s.writeFc fc).queue = s.queue := rfl
@[simp] theorem State.writeFc_errIll (s : State) (fc : FcWord) : (s.writeFc fc).errIll = s.errIll := rfl
@[simp] theorem State.writeFc_errBusy (s : State) (fc : FcWord) : (s.writeFc fc).errBusy = s.errBusy := rfl
@[simp] theorem State.writeFc_resInrange (s : State) (fc : FcWord) : (s.writeFc fc).resInrange = s.resInrange := rfl
@[simp] theorem State.writeFc_resKidx (s : State) (fc : FcWord) : (s.writeFc fc).resKidx = s.resKidx := rfl
@[simp] theorem State.writeFc_resLitpos (s : State) (fc : FcWord) : (s.writeFc fc).resLitpos = s.resLitpos := rfl
@[simp] theorem State.writeFc_rst (s : State) (fc : FcWord) : (s.writeFc fc).rst = s.rst := rfl
@[simp] theorem State.writeFc_host (s : State) (fc : FcWord) : (s.writeFc fc).host = s.host := rfl
@[simp] theorem State.writeFc_resp (s : State) (fc : FcWord) : (s.writeFc fc).resp = s.resp := rfl
@[simp] theorem State.writeFc_busFault (s : State) (fc : FcWord) : (s.writeFc fc).busFault = s.busFault := rfl
@[simp] theorem State.writeFc_turns (s : State) (fc : FcWord) : (s.writeFc fc).turns = s.turns := rfl
@[simp] theorem State.writeFc_gapIndex (s : State) (fc : FcWord) : (s.writeFc fc).gapIndex = s.gapIndex := rfl
@[simp] theorem State.writeFc_gapTurns (s : State) (fc : FcWord) : (s.writeFc fc).gapTurns = s.gapTurns := rfl
@[simp] theorem State.writeFc_wave (s : State) (fc : FcWord) : (s.writeFc fc).wave = s.wave := rfl

/-! ### writeResult -/

@[simp] theorem State.writeResult_fc (s : State) (a : Bool) (k l : BitVec 4) : (s.writeResult a k l).fc = s.fc := rfl
@[simp] theorem State.writeResult_pins (s : State) (a : Bool) (k l : BitVec 4) : (s.writeResult a k l).pins = s.pins := rfl
@[simp] theorem State.writeResult_queue (s : State) (a : Bool) (k l : BitVec 4) : (s.writeResult a k l).queue = s.queue := rfl
@[simp] theorem State.writeResult_errIll (s : State) (a : Bool) (k l : BitVec 4) : (s.writeResult a k l).errIll = s.errIll := rfl
@[simp] theorem State.writeResult_errBusy (s : State) (a : Bool) (k l : BitVec 4) : (s.writeResult a k l).errBusy = s.errBusy := rfl
@[simp] theorem State.writeResult_resInrange (s : State) (a : Bool) (k l : BitVec 4) : (s.writeResult a k l).resInrange = a := rfl
@[simp] theorem State.writeResult_resKidx (s : State) (a : Bool) (k l : BitVec 4) : (s.writeResult a k l).resKidx = k := rfl
@[simp] theorem State.writeResult_resLitpos (s : State) (a : Bool) (k l : BitVec 4) : (s.writeResult a k l).resLitpos = l := rfl
@[simp] theorem State.writeResult_rst (s : State) (a : Bool) (k l : BitVec 4) : (s.writeResult a k l).rst = s.rst := rfl
@[simp] theorem State.writeResult_host (s : State) (a : Bool) (k l : BitVec 4) : (s.writeResult a k l).host = s.host := rfl
@[simp] theorem State.writeResult_resp (s : State) (a : Bool) (k l : BitVec 4) : (s.writeResult a k l).resp = s.resp := rfl
@[simp] theorem State.writeResult_busFault (s : State) (a : Bool) (k l : BitVec 4) : (s.writeResult a k l).busFault = s.busFault := rfl
@[simp] theorem State.writeResult_turns (s : State) (a : Bool) (k l : BitVec 4) : (s.writeResult a k l).turns = s.turns := rfl
@[simp] theorem State.writeResult_gapIndex (s : State) (a : Bool) (k l : BitVec 4) : (s.writeResult a k l).gapIndex = s.gapIndex := rfl
@[simp] theorem State.writeResult_gapTurns (s : State) (a : Bool) (k l : BitVec 4) : (s.writeResult a k l).gapTurns = s.gapTurns := rfl
@[simp] theorem State.writeResult_wave (s : State) (a : Bool) (k l : BitVec 4) : (s.writeResult a k l).wave = s.wave := rfl

/-! ### resetBlock -/

@[simp] theorem State.resetBlock_fc (s : State) : s.resetBlock.fc = 0#48 := rfl
@[simp] theorem State.resetBlock_pins (s : State) : s.resetBlock.pins = Pins.low := rfl
@[simp] theorem State.resetBlock_queue (s : State) : s.resetBlock.queue = [] := rfl
@[simp] theorem State.resetBlock_errIll (s : State) : s.resetBlock.errIll = false := rfl
@[simp] theorem State.resetBlock_errBusy (s : State) : s.resetBlock.errBusy = false := rfl
@[simp] theorem State.resetBlock_resInrange (s : State) : s.resetBlock.resInrange = false := rfl
@[simp] theorem State.resetBlock_resKidx (s : State) : s.resetBlock.resKidx = 0#4 := rfl
@[simp] theorem State.resetBlock_resLitpos (s : State) : s.resetBlock.resLitpos = 0#4 := rfl
@[simp] theorem State.resetBlock_rst (s : State) : s.resetBlock.rst = s.rst := rfl
@[simp] theorem State.resetBlock_host (s : State) : s.resetBlock.host = s.host := rfl
@[simp] theorem State.resetBlock_resp (s : State) : s.resetBlock.resp = s.resp := rfl
@[simp] theorem State.resetBlock_busFault (s : State) : s.resetBlock.busFault = s.busFault := rfl
@[simp] theorem State.resetBlock_turns (s : State) : s.resetBlock.turns = s.turns := rfl
@[simp] theorem State.resetBlock_gapIndex (s : State) : s.resetBlock.gapIndex = s.gapIndex := rfl
@[simp] theorem State.resetBlock_gapTurns (s : State) : s.resetBlock.gapTurns = s.gapTurns := rfl
@[simp] theorem State.resetBlock_wave (s : State) : s.resetBlock.wave = s.wave := rfl

/-! ### assertRst -/

@[simp] theorem State.assertRst_fc (s : State) : (s.setRst true).fc = 0#48 := rfl
@[simp] theorem State.assertRst_pins (s : State) : (s.setRst true).pins = Pins.low := rfl
@[simp] theorem State.assertRst_queue (s : State) : (s.setRst true).queue = [] := rfl
@[simp] theorem State.assertRst_errIll (s : State) : (s.setRst true).errIll = false := rfl
@[simp] theorem State.assertRst_errBusy (s : State) : (s.setRst true).errBusy = false := rfl
@[simp] theorem State.assertRst_resInrange (s : State) : (s.setRst true).resInrange = false := rfl
@[simp] theorem State.assertRst_resKidx (s : State) : (s.setRst true).resKidx = 0#4 := rfl
@[simp] theorem State.assertRst_resLitpos (s : State) : (s.setRst true).resLitpos = 0#4 := rfl
@[simp] theorem State.assertRst_rst (s : State) : (s.setRst true).rst = true := rfl
@[simp] theorem State.assertRst_host (s : State) : (s.setRst true).host = s.host := rfl
@[simp] theorem State.assertRst_resp (s : State) : (s.setRst true).resp = s.resp := rfl
@[simp] theorem State.assertRst_busFault (s : State) : (s.setRst true).busFault = s.busFault := rfl
@[simp] theorem State.assertRst_turns (s : State) : (s.setRst true).turns = s.turns := rfl
@[simp] theorem State.assertRst_gapIndex (s : State) : (s.setRst true).gapIndex = s.gapIndex := rfl
@[simp] theorem State.assertRst_gapTurns (s : State) : (s.setRst true).gapTurns = s.gapTurns := rfl
@[simp] theorem State.assertRst_wave (s : State) : (s.setRst true).wave = (if s.rst then s.wave else .reset :: s.wave) := rfl

/-! ### releaseRst -/

@[simp] theorem State.releaseRst_fc (s : State) : (s.setRst false).fc = s.fc := rfl
@[simp] theorem State.releaseRst_pins (s : State) : (s.setRst false).pins = s.pins := rfl
@[simp] theorem State.releaseRst_queue (s : State) : (s.setRst false).queue = s.queue := rfl
@[simp] theorem State.releaseRst_errIll (s : State) : (s.setRst false).errIll = s.errIll := rfl
@[simp] theorem State.releaseRst_errBusy (s : State) : (s.setRst false).errBusy = s.errBusy := rfl
@[simp] theorem State.releaseRst_resInrange (s : State) : (s.setRst false).resInrange = s.resInrange := rfl
@[simp] theorem State.releaseRst_resKidx (s : State) : (s.setRst false).resKidx = s.resKidx := rfl
@[simp] theorem State.releaseRst_resLitpos (s : State) : (s.setRst false).resLitpos = s.resLitpos := rfl
@[simp] theorem State.releaseRst_rst (s : State) : (s.setRst false).rst = false := rfl
@[simp] theorem State.releaseRst_host (s : State) : (s.setRst false).host = s.host := rfl
@[simp] theorem State.releaseRst_resp (s : State) : (s.setRst false).resp = s.resp := rfl
@[simp] theorem State.releaseRst_busFault (s : State) : (s.setRst false).busFault = s.busFault := rfl
@[simp] theorem State.releaseRst_turns (s : State) : (s.setRst false).turns = s.turns := rfl
@[simp] theorem State.releaseRst_gapIndex (s : State) : (s.setRst false).gapIndex = s.gapIndex := rfl
@[simp] theorem State.releaseRst_gapTurns (s : State) : (s.setRst false).gapTurns = s.gapTurns := rfl
@[simp] theorem State.releaseRst_wave (s : State) : (s.setRst false).wave = s.wave := rfl

/-! ### respond -/

@[simp] theorem State.respond_fc (s : State) (r : Response) : (s.respond r).fc = s.fc := rfl
@[simp] theorem State.respond_pins (s : State) (r : Response) : (s.respond r).pins = s.pins := rfl
@[simp] theorem State.respond_queue (s : State) (r : Response) : (s.respond r).queue = s.queue := rfl
@[simp] theorem State.respond_errIll (s : State) (r : Response) : (s.respond r).errIll = s.errIll := rfl
@[simp] theorem State.respond_errBusy (s : State) (r : Response) : (s.respond r).errBusy = s.errBusy := rfl
@[simp] theorem State.respond_resInrange (s : State) (r : Response) : (s.respond r).resInrange = s.resInrange := rfl
@[simp] theorem State.respond_resKidx (s : State) (r : Response) : (s.respond r).resKidx = s.resKidx := rfl
@[simp] theorem State.respond_resLitpos (s : State) (r : Response) : (s.respond r).resLitpos = s.resLitpos := rfl
@[simp] theorem State.respond_rst (s : State) (r : Response) : (s.respond r).rst = s.rst := rfl
@[simp] theorem State.respond_host (s : State) (r : Response) : (s.respond r).host = s.host := rfl
@[simp] theorem State.respond_resp (s : State) (r : Response) : (s.respond r).resp = some r := rfl
@[simp] theorem State.respond_busFault (s : State) (r : Response) : (s.respond r).busFault = s.busFault := rfl
@[simp] theorem State.respond_turns (s : State) (r : Response) : (s.respond r).turns = s.turns := rfl
@[simp] theorem State.respond_gapIndex (s : State) (r : Response) : (s.respond r).gapIndex = s.gapIndex := rfl
@[simp] theorem State.respond_gapTurns (s : State) (r : Response) : (s.respond r).gapTurns = s.gapTurns := rfl
@[simp] theorem State.respond_wave (s : State) (r : Response) : (s.respond r).wave = s.wave := rfl

/-! ### raiseBusError -/

@[simp] theorem State.raiseBusError_fc (s : State) (off : Offset) : (s.raiseBusError off).fc = s.fc := rfl
@[simp] theorem State.raiseBusError_pins (s : State) (off : Offset) : (s.raiseBusError off).pins = s.pins := rfl
@[simp] theorem State.raiseBusError_queue (s : State) (off : Offset) : (s.raiseBusError off).queue = s.queue := rfl
@[simp] theorem State.raiseBusError_errIll (s : State) (off : Offset) : (s.raiseBusError off).errIll = s.errIll := rfl
@[simp] theorem State.raiseBusError_errBusy (s : State) (off : Offset) : (s.raiseBusError off).errBusy = s.errBusy := rfl
@[simp] theorem State.raiseBusError_resInrange (s : State) (off : Offset) : (s.raiseBusError off).resInrange = s.resInrange := rfl
@[simp] theorem State.raiseBusError_resKidx (s : State) (off : Offset) : (s.raiseBusError off).resKidx = s.resKidx := rfl
@[simp] theorem State.raiseBusError_resLitpos (s : State) (off : Offset) : (s.raiseBusError off).resLitpos = s.resLitpos := rfl
@[simp] theorem State.raiseBusError_rst (s : State) (off : Offset) : (s.raiseBusError off).rst = s.rst := rfl
@[simp] theorem State.raiseBusError_host (s : State) (off : Offset) : (s.raiseBusError off).host = s.host := rfl
@[simp] theorem State.raiseBusError_resp (s : State) (off : Offset) : (s.raiseBusError off).resp = some (.fault (.busError off)) := rfl
@[simp] theorem State.raiseBusError_busFault (s : State) (off : Offset) : (s.raiseBusError off).busFault = some (.busError off) := rfl
@[simp] theorem State.raiseBusError_turns (s : State) (off : Offset) : (s.raiseBusError off).turns = s.turns := rfl
@[simp] theorem State.raiseBusError_gapIndex (s : State) (off : Offset) : (s.raiseBusError off).gapIndex = s.gapIndex := rfl
@[simp] theorem State.raiseBusError_gapTurns (s : State) (off : Offset) : (s.raiseBusError off).gapTurns = s.gapTurns := rfl
@[simp] theorem State.raiseBusError_wave (s : State) (off : Offset) : (s.raiseBusError off).wave = s.wave := rfl

end Sys2Proof.Machine
end

