-- ==== Sys2Proof/Laws/Ops.lean ====
section
/-! SUPPORT. What each shared operation can do, said once: presenting a command, performing events, the engine's step,
and the setters' one update. -/

namespace Sys2Proof.Machine

/-! ### busy -/

theorem busy_eq_false_iff (s : State) : s.busy = false ↔ s.queue = [] := by
  simp [State.busy]

theorem busy_eq_true_iff (s : State) : s.busy = true ↔ s.queue ≠ [] := by
  simp [State.busy]

/-! ### presenting a command -/

theorem present_idle {effect : State → State} {s : State} (h : s.queue = []) :
    s.present effect = effect s := by
  simp [State.present, (busy_eq_false_iff s).2 h]

theorem present_busy {effect : State → State} {s : State} (h : s.queue ≠ []) :
    s.present effect = s.flagBusy := by
  simp [State.present, (busy_eq_true_iff s).2 h]

theorem accept_idle {effect : State → State} {s : State} (h : s.queue = []) :
    accept effect s = .next (effect s) := by
  rw [accept, present_idle h]

theorem accept_busy {effect : State → State} {s : State} (h : s.queue ≠ []) :
    accept effect s = .next s.flagBusy := by
  rw [accept, present_busy h]

/-- Everything that presenting a command can do. -/
theorem accept_cases {effect : State → State} {s t : State} (h : accept effect s = .next t) :
    (s.queue = [] ∧ t = effect s) ∨ (s.queue ≠ [] ∧ t = s.flagBusy) := by
  by_cases hq : s.queue = []
  · rw [accept_idle hq] at h
    exact .inl ⟨hq, (Host.Outcome.next.inj h).symm⟩
  · rw [accept_busy hq] at h
    exact .inr ⟨hq, (Host.Outcome.next.inj h).symm⟩

/-- Presenting a setter while idle writes `fc` and nothing else. -/
theorem fcset_idle (fld : Field) (value : Word) {s : State} (h : s.queue = []) :
    fcset fld value s = .next (s.writeFc (insertField fld (pattern fld value) s.fc)) :=
  accept_idle h

/-! ### performing events -/

theorem performEvents_nil (p : Pins) : performEvents p [] = p := rfl

theorem performEvents_cons (p : Pins) (e : Event) (es : List Event) :
    performEvents p (e :: es) = performEvents (performEvent p e) es := rfl

theorem performEvents_append (p : Pins) (es fs : List Event) :
    performEvents p (es ++ fs) = performEvents (performEvents p es) fs := by
  simp [performEvents]

/-- Everything that the engine's step can do. -/
theorem engineStep_cases (s : State) :
    (engineStep s = s ∧ (s.rst = true ∨ s.queue = []))
      ∨ ∃ e rest, s.rst = false ∧ s.queue = e :: rest
          ∧ engineStep s = { s with
              pins := performEvent s.pins e, queue := rest, wave := .event (performEvent s.pins e) :: s.wave } := by
  cases hr : s.rst with
  | true => exact .inl ⟨by simp [engineStep, hr], .inl rfl⟩
  | false =>
    cases hq : s.queue with
    | nil => exact .inl ⟨by simp [engineStep, hr, hq], .inr rfl⟩
    | cons e rest => exact .inr ⟨e, rest, rfl, rfl, by simp [engineStep, hr, hq]⟩

end Sys2Proof.Machine
end

