-- ==== Sys2Proof/Laws/Codec.lean ====
section
/-! SUPPORT. Sequences of accepted commands, and the setters as the selectors name them. -/

namespace Sys2Proof.Machine

theorem execAll_nil (s : State) : execAll [] s = .next s := rfl

/-- A sequence whose first command is known goes on from there. -/
theorem execAll_cons {i : Instr} {is : List Instr} {s t : State} (h : exec i s = .next t) :
    execAll (i :: is) s = execAll is t := by
  simp [execAll, h]

/-- The field that a selector names (R78). -/
def fieldOf (sel : BitVec 4) : Field :=
  match sel.toNat with
  | 0x0 => .lod
  | 0x1 => .hold
  | 0x2 => .gdly
  | 0x3 => .autoref
  | 0x4 => .gsedge
  | 0x5 => .pchg
  | 0x6 => .epwm
  | 0x7 => .bluecomp
  | 0x8 => .dbledge
  | 0x9 => .lgse1
  | 0xA => .brb
  | 0xB => .brg
  | 0xC => .brr
  | 0xD => .gain
  | 0xE => .poker
  | _ => .lgse2

/-- The setter that a selector names is the one update of R101 on the selector's field. -/
theorem exec_setterOf (sel : BitVec 4) (value : Word) (s : State) :
    exec (setterOf sel value) s = fcset (fieldOf sel) value s := by
  have hlt := sel.isLt
  unfold setterOf fieldOf
  generalize sel.toNat = x at hlt ⊢
  interval_cases x <;> rfl

theorem fieldOf_injective {a b : BitVec 4} (h : fieldOf a = fieldOf b) : a = b := by
  revert a b
  decide

/-- An accepted setter leaves `busy` 0, so the next command is accepted too. -/
theorem exec_setterOf_idle (sel : BitVec 4) (value : Word) {s : State} (h : s.queue = []) :
    exec (setterOf sel value) s
      = .next (s.writeFc (insertField (fieldOf sel) (pattern (fieldOf sel) value) s.fc)) := by
  rw [exec_setterOf, fcset_idle _ _ h]

end Sys2Proof.Machine
end

