-- ==== Sys2Proof/Laws/Encoding.lean ====
section
/-! SUPPORT. The bits of the command formats, one lemma a format, and the fields the decoder reads back from them. -/

namespace Sys2Proof

theorem bits_getLsbD (v : Word32) (lo w k : Nat) :
    (bits v lo w).getLsbD k = (decide (k < w) && v.getLsbD (lo + k)) := by
  simp [bits]

/-- A field is determined by the bits of the word it is read from. -/
theorem bits_eq_of_getLsbD {v : Word32} {lo w : Nat} {x : BitVec w}
    (h : ∀ k < w, v.getLsbD (lo + k) = x.getLsbD k) : bits v lo w = x :=
  BitVec.eq_of_getLsbD_eq fun k hk => by rw [bits_getLsbD, h k hk]; simp [hk]

theorem formatZ_getLsbD (op : BitVec 4) (k : Nat) :
    (formatZ op).getLsbD k = if k < 28 then false else op.getLsbD (k - 28) := by
  show BitVec.getLsbD (w := 4 + 28) (op ++ 0#28) k = _
  simp only [BitVec.getLsbD_append, BitVec.getLsbD_zero]

theorem formatS_getLsbD (sel : BitVec 4) (value : Word) (k : Nat) :
    (formatS sel value).getLsbD k
      = if k < 16 then value.getLsbD k else if k < 24 then false
        else if k < 28 then sel.getLsbD (k - 24) else (0x1#4).getLsbD (k - 28) := by
  show BitVec.getLsbD (w := 4 + 4 + 8 + 16) (0x1#4 ++ sel ++ 0#8 ++ value) k = _
  simp only [BitVec.getLsbD_append, BitVec.getLsbD_zero]
  grind

theorem formatT_getLsbD (n : BitVec 5) (word : Word) (k : Nat) :
    (formatT n word).getLsbD k
      = if k < 16 then word.getLsbD k else if k < 21 then n.getLsbD (k - 16)
        else if k < 28 then false else (0x2#4).getLsbD (k - 28) := by
  show BitVec.getLsbD (w := 4 + 7 + 5 + 16) (0x2#4 ++ 0#7 ++ n ++ word) k = _
  simp only [BitVec.getLsbD_append, BitVec.getLsbD_zero]
  grind

theorem formatD_getLsbD (d : Bool) (k : Nat) :
    (formatD d).getLsbD k
      = if k < 1 then d else if k < 28 then false else (0x3#4).getLsbD (k - 28) := by
  show BitVec.getLsbD (w := 4 + 27 + 1) (0x3#4 ++ 0#27 ++ BitVec.ofBool d) k = _
  simp only [BitVec.getLsbD_append, BitVec.getLsbD_zero, BitVec.getLsbD_ofBool]
  grind

theorem formatR_getLsbD (dir : Bool) (ch : BitVec 2) (f : Word) (k : Nat) :
    (formatR dir ch f).getLsbD k
      = if k < 16 then f.getLsbD k else if k < 18 then ch.getLsbD (k - 16) else if k < 19 then dir
        else if k < 28 then false else (0x6#4).getLsbD (k - 28) := by
  show BitVec.getLsbD (w := 4 + 9 + 1 + 2 + 16) (0x6#4 ++ 0#9 ++ BitVec.ofBool dir ++ ch ++ f) k = _
  simp only [BitVec.getLsbD_append, BitVec.getLsbD_zero, BitVec.getLsbD_ofBool]
  grind

/-! ### The fields of each format -/

theorem formatZ_op (op : BitVec 4) : bits (formatZ op) 28 4 = op :=
  bits_eq_of_getLsbD fun k hk => by rw [formatZ_getLsbD]; grind

theorem formatZ_reserved (op : BitVec 4) : bits (formatZ op) 0 28 = 0#28 :=
  bits_eq_of_getLsbD fun k hk => by rw [formatZ_getLsbD]; grind

theorem formatS_op (sel : BitVec 4) (value : Word) : bits (formatS sel value) 28 4 = 0x1#4 :=
  bits_eq_of_getLsbD fun k hk => by rw [formatS_getLsbD]; grind

theorem formatS_sel (sel : BitVec 4) (value : Word) : bits (formatS sel value) 24 4 = sel :=
  bits_eq_of_getLsbD fun k hk => by rw [formatS_getLsbD]; grind

theorem formatS_reserved (sel : BitVec 4) (value : Word) : bits (formatS sel value) 16 8 = 0#8 :=
  bits_eq_of_getLsbD fun k hk => by rw [formatS_getLsbD]; grind

theorem formatS_value (sel : BitVec 4) (value : Word) : bits (formatS sel value) 0 16 = value :=
  bits_eq_of_getLsbD fun k hk => by rw [formatS_getLsbD]; grind

theorem formatT_op (n : BitVec 5) (word : Word) : bits (formatT n word) 28 4 = 0x2#4 :=
  bits_eq_of_getLsbD fun k hk => by rw [formatT_getLsbD]; grind

theorem formatT_reserved (n : BitVec 5) (word : Word) : bits (formatT n word) 21 7 = 0#7 :=
  bits_eq_of_getLsbD fun k hk => by rw [formatT_getLsbD]; grind

theorem formatT_count (n : BitVec 5) (word : Word) : bits (formatT n word) 16 5 = n :=
  bits_eq_of_getLsbD fun k hk => by rw [formatT_getLsbD]; grind

theorem formatT_word (n : BitVec 5) (word : Word) : bits (formatT n word) 0 16 = word :=
  bits_eq_of_getLsbD fun k hk => by rw [formatT_getLsbD]; grind

theorem formatD_op (d : Bool) : bits (formatD d) 28 4 = 0x3#4 :=
  bits_eq_of_getLsbD fun k hk => by rw [formatD_getLsbD]; grind

theorem formatD_reserved (d : Bool) : bits (formatD d) 1 27 = 0#27 :=
  bits_eq_of_getLsbD fun k hk => by rw [formatD_getLsbD]; grind

theorem formatD_level (d : Bool) : bits (formatD d) 0 1 = BitVec.ofBool d :=
  bits_eq_of_getLsbD fun k hk => by rw [formatD_getLsbD, BitVec.getLsbD_ofBool]; grind

theorem formatR_op (dir : Bool) (ch : BitVec 2) (f : Word) : bits (formatR dir ch f) 28 4 = 0x6#4 :=
  bits_eq_of_getLsbD fun k hk => by rw [formatR_getLsbD]; grind

theorem formatR_reserved (dir : Bool) (ch : BitVec 2) (f : Word) : bits (formatR dir ch f) 19 9 = 0#9 :=
  bits_eq_of_getLsbD fun k hk => by rw [formatR_getLsbD]; grind

theorem formatR_dir (dir : Bool) (ch : BitVec 2) (f : Word) : bits (formatR dir ch f) 18 1 = BitVec.ofBool dir :=
  bits_eq_of_getLsbD fun k hk => by rw [formatR_getLsbD, BitVec.getLsbD_ofBool]; grind

theorem formatR_channel (dir : Bool) (ch : BitVec 2) (f : Word) : bits (formatR dir ch f) 16 2 = ch :=
  bits_eq_of_getLsbD fun k hk => by rw [formatR_getLsbD]; grind

theorem formatR_index (dir : Bool) (ch : BitVec 2) (f : Word) : bits (formatR dir ch f) 0 16 = f :=
  bits_eq_of_getLsbD fun k hk => by rw [formatR_getLsbD]; grind

end Sys2Proof
end

