-- ==== Sys2Proof/Laws/Flags.lean ====
section
/-! SUPPORT. The host registers bit by bit, one lemma a register. -/

namespace Sys2Proof.Machine

theorem statusReg_getLsbD (s : State) (k : Nat) :
    s.statusReg.getLsbD k
      = if k = 0 then s.busy else if k = 1 then s.errIll else if k = 2 then s.errBusy else false := by
  show BitVec.getLsbD (w := 29 + 1 + 1 + 1)
    (0#29 ++ BitVec.ofBool s.errBusy ++ BitVec.ofBool s.errIll ++ BitVec.ofBool s.busy) k = _
  simp only [BitVec.getLsbD_append, BitVec.getLsbD_zero, BitVec.getLsbD_ofBool]
  grind

theorem resultReg_getLsbD (s : State) (k : Nat) :
    s.resultReg.getLsbD k
      = if k = 0 then s.resInrange else if k < 4 then false
        else if k < 8 then s.resKidx.getLsbD (k - 4) else s.resLitpos.getLsbD (k - 8) := by
  show BitVec.getLsbD (w := 20 + 4 + 4 + 3 + 1)
    (0#20 ++ s.resLitpos ++ s.resKidx ++ 0#3 ++ BitVec.ofBool s.resInrange) k = _
  simp only [BitVec.getLsbD_append, BitVec.getLsbD_zero, BitVec.getLsbD_ofBool]
  grind

theorem pinsReg_getLsbD (s : State) (k : Nat) :
    s.pinsReg.getLsbD k
      = if k = 0 then s.pins.data else if k = 1 then s.pins.clock else if k = 2 then s.pins.latch
        else if k = 3 then s.pins.halo else false := by
  show BitVec.getLsbD (w := 28 + 1 + 1 + 1 + 1)
    (0#28 ++ BitVec.ofBool s.pins.halo ++ BitVec.ofBool s.pins.latch ++ BitVec.ofBool s.pins.clock
      ++ BitVec.ofBool s.pins.data) k = _
  simp only [BitVec.getLsbD_append, BitVec.getLsbD_zero, BitVec.getLsbD_ofBool]
  grind

end Sys2Proof.Machine
end

