-- ==== Sys2Proof/Laws/PerInstr.lean ====
section
/-! SUPPORT. Facts about every command as syntax, one lemma a constructor: the word of a well-formed command is legal
(R79), so no encoding trips over a reserved field. -/

namespace Sys2Proof.Laws.EncodesLegalWord

/-- The word of a well-formed command satisfies `legal` of R79. -/
def Statement (i : Instr) : Prop := i.wf = true → legal (encode i) = true

theorem of_formatZ {op : BitVec 4} (h : op = 0x0#4 ∨ op = 0x4#4 ∨ op = 0x5#4) : legal (formatZ op) = true := by
  simp only [legal, formatZ_op, formatZ_reserved]
  rcases h with rfl | rfl | rfl <;> rfl

theorem of_formatS (sel : BitVec 4) (value : Word) : legal (formatS sel value) = true := by
  simp only [legal, formatS_op, formatS_reserved]
  rfl

theorem nop : Statement .nop := fun _ => of_formatZ (.inl rfl)

theorem setLod (value : Word) : Statement (.setLod value) := fun _ => of_formatS _ value

theorem setHold (value : Word) : Statement (.setHold value) := fun _ => of_formatS _ value

theorem setGdly (value : Word) : Statement (.setGdly value) := fun _ => of_formatS _ value

theorem setAutoref (value : Word) : Statement (.setAutoref value) := fun _ => of_formatS _ value

theorem setGsedge (value : Word) : Statement (.setGsedge value) := fun _ => of_formatS _ value

theorem setPchg (value : Word) : Statement (.setPchg value) := fun _ => of_formatS _ value

theorem setEpwm (value : Word) : Statement (.setEpwm value) := fun _ => of_formatS _ value

theorem setBluecomp (value : Word) : Statement (.setBluecomp value) := fun _ => of_formatS _ value

theorem setDbledge (value : Word) : Statement (.setDbledge value) := fun _ => of_formatS _ value

theorem setLgse1 (value : Word) : Statement (.setLgse1 value) := fun _ => of_formatS _ value

theorem setBrb (value : Word) : Statement (.setBrb value) := fun _ => of_formatS _ value

theorem setBrg (value : Word) : Statement (.setBrg value) := fun _ => of_formatS _ value

theorem setBrr (value : Word) : Statement (.setBrr value) := fun _ => of_formatS _ value

theorem setGain (value : Word) : Statement (.setGain value) := fun _ => of_formatS _ value

theorem setPoker (value : Word) : Statement (.setPoker value) := fun _ => of_formatS _ value

theorem setLgse2 (value : Word) : Statement (.setLgse2 value) := fun _ => of_formatS _ value

theorem shift (word : Word) (n : BitVec 5) : Statement (.shift word n) := fun _ => by
  simp only [encode, legal, formatT_op, formatT_reserved]
  rfl

theorem setdata (d : Bool) : Statement (.setdata d) := fun _ => by
  simp only [encode, legal, formatD_op, formatD_reserved]
  rfl

theorem unlock : Statement .unlock := fun _ => of_formatZ (.inr (.inl rfl))

theorem fcload : Statement .fcload := fun _ => of_formatZ (.inr (.inr rfl))

theorem render (f : Word) (ch : BitVec 2) (dir : Bool) : Statement (.render f ch dir) := fun h => by
  simp only [encode, legal, formatR_op, formatR_reserved, formatR_channel]
  simpa [Instr.wf] using h

end Sys2Proof.Laws.EncodesLegalWord
end

