-- ==== Sys2Proof/Laws/Step.lean ====
section
/-! SUPPORT. What a command, an access, a turn and a step can do, said once for each. -/

namespace Sys2Proof.Machine

/-- Everything that a command can do: nothing but ERR_BUSY while busy; otherwise a setter's write of `fc`, a new queue,
RENDER's result with its queue, or ERR_ILL for the ill-formed RENDER. -/
theorem exec_cases {i : Instr} {s t : State} (h : exec i s = .next t) :
    (s.queue ≠ [] ∧ t = s.flagBusy)
      ∨ (s.queue = [] ∧
          (t = s ∨ (∃ fc, t = s.writeFc fc) ∨ (∃ es, t = s.enqueue es)
            ∨ (∃ a k l es, t = (s.writeResult a k l).enqueue es) ∨ t = s.flagIll)) := by
  have key : ∀ effect : State → State, accept effect s = .next t →
      (s.queue ≠ [] ∧ t = s.flagBusy) ∨ (s.queue = [] ∧ t = effect s) := fun _ h' =>
    (accept_cases h').symm
  cases i with
  | nop => exact (key _ h).imp_right fun ⟨hq, ht⟩ => ⟨hq, .inl ht⟩
  | shift word n => exact (key _ h).imp_right fun ⟨hq, ht⟩ => ⟨hq, .inr (.inr (.inl ⟨_, ht⟩))⟩
  | setdata d => exact (key _ h).imp_right fun ⟨hq, ht⟩ => ⟨hq, .inr (.inr (.inl ⟨_, ht⟩))⟩
  | unlock => exact (key _ h).imp_right fun ⟨hq, ht⟩ => ⟨hq, .inr (.inr (.inl ⟨_, ht⟩))⟩
  | fcload => exact (key _ h).imp_right fun ⟨hq, ht⟩ => ⟨hq, .inr (.inr (.inl ⟨_, ht⟩))⟩
  | render f ch dir =>
    refine (key _ h).imp_right fun ⟨hq, ht⟩ => ⟨hq, ?_⟩
    by_cases hc : ch = 3#2
    · simp only [hc, if_true] at ht
      exact .inr (.inr (.inr (.inr ht)))
    · simp only [hc, if_false] at ht
      exact .inr (.inr (.inr (.inl ⟨_, _, _, _, ht⟩)))
  | _ => exact (key _ h).imp_right fun ⟨hq, ht⟩ => ⟨hq, .inr (.inl ⟨_, ht⟩)⟩

/-- What is left to say of a step once its turn is known. -/
theorem step_of_turn {s : State} {t : Turn} {ts : List Turn} (h : s.turns = t :: ts) :
    step s = takeTurn t { s with turns := ts } := by
  simp [step, nextTurn, h]

/-- Everything that a free turn can do: the host's turn adds to the running gap, the engine's ends it. -/
theorem freeTurn_cases (s : State) :
    (s.gapTurns < Config.freeGap s.gapIndex
        ∧ freeTurn s = (.agent .host, { s with gapTurns := s.gapTurns + 1 }))
      ∨ (Config.freeGap s.gapIndex ≤ s.gapTurns
        ∧ freeTurn s = (.agent .engine, { s with gapIndex := s.gapIndex + 1, gapTurns := 0 })) := by
  by_cases h : s.gapTurns < Config.freeGap s.gapIndex
  · exact .inl ⟨h, by simp [freeTurn, h]⟩
  · exact .inr ⟨by omega, by simp [freeTurn, h]⟩

/-- Where the schedule is used up, the next turn is a free one. -/
theorem nextTurn_free {s : State} (h : s.turns = []) : nextTurn s = freeTurn s := by
  simp [nextTurn, h]

/-- Where the schedule has a head, that is the next turn. -/
theorem nextTurn_scheduled {s : State} {t : Turn} {ts : List Turn} (h : s.turns = t :: ts) :
    nextTurn s = (t, { s with turns := ts }) := by
  simp [nextTurn, h]

/-- The next turn changes only the schedule or the count of the running free gap. -/
theorem nextTurn_frame (s : State) :
    (nextTurn s).2
      = { s with
          turns := (nextTurn s).2.turns
          gapIndex := (nextTurn s).2.gapIndex
          gapTurns := (nextTurn s).2.gapTurns } := by
  cases h : s.turns with
  | nil =>
    rw [nextTurn_free h]
    rcases freeTurn_cases s with ⟨-, hf⟩ | ⟨-, hf⟩ <;> rw [hf]
  | cons t ts => rw [nextTurn_scheduled h]

/-- Everything that a host access can do. -/
theorem hostAccess_cases {a : Access} {s t : State} (h : hostAccess a s = .next t) :
    (s.rst = true ∧ t = s.respond .discarded)
      ∨ (s.rst = false ∧ a.isAlignedWord = false ∧ t = s.raiseBusError a.off)
      ∨ (s.rst = false ∧ a.isAlignedWord = true ∧
          ((a.kind = .read ∧ t = s.respond (.value (s.readReg a.regNumber)))
            ∨ ∃ v, a.kind = .write v ∧
                ((a.regNumber = 0 ∧ writeCmd v (s.respond .written) = .next t)
                  ∨ (a.regNumber = 1 ∧ t = (s.respond .written).clearErrors v)
                  ∨ (2 ≤ a.regNumber ∧ t = s.respond .written)))) := by
  cases hr : s.rst with
  | true =>
    simp only [hostAccess, hr, if_true] at h
    exact .inl ⟨rfl, (Host.Outcome.next.inj h).symm⟩
  | false =>
    right
    cases ha : a.isAlignedWord with
    | false =>
      simp only [hostAccess, hr, ha, Bool.not_false, if_true, Bool.false_eq_true, if_false] at h
      exact .inl ⟨rfl, rfl, (Host.Outcome.next.inj h).symm⟩
    | true =>
      right
      refine ⟨rfl, rfl, ?_⟩
      cases hk : a.kind with
      | read =>
        simp only [hostAccess, hr, ha, hk, Bool.not_true, Bool.false_eq_true, if_false] at h
        exact .inl ⟨rfl, (Host.Outcome.next.inj h).symm⟩
      | write v =>
        right
        refine ⟨v, rfl, ?_⟩
        simp only [hostAccess, hr, ha, hk, Bool.not_true, Bool.false_eq_true, if_false] at h
        rcases hreg : a.regNumber with _ | _ | n
        · rw [hreg] at h; exact .inl ⟨rfl, h⟩
        · rw [hreg] at h; exact .inr (.inl ⟨rfl, (Host.Outcome.next.inj h).symm⟩)
        · rw [hreg] at h; exact .inr (.inr ⟨by omega, (Host.Outcome.next.inj h).symm⟩)

/-- Everything that a write to CMD can do. -/
theorem writeCmd_cases {v : Word32} {s t : State} (h : writeCmd v s = .next t) :
    (∃ i, decode v = .ok i ∧ exec i s = .next t)
      ∨ (∃ e, decode v = .error e ∧
          ((s.queue = [] ∧ t = s.flagIll) ∨ (s.queue ≠ [] ∧ t = s.flagBusy))) := by
  cases hd : decode v with
  | ok i => exact .inl ⟨i, rfl, by simpa [writeCmd, hd] using h⟩
  | error e => exact .inr ⟨e, rfl, accept_cases (by simpa [writeCmd, hd] using h)⟩

/-- The access of `cmdWrite` is the aligned word write to register 0. -/
theorem hostAccess_cmdWrite {v : Word32} {s : State} (hr : s.rst = false) :
    hostAccess { off := 0x00#5, width := .word, kind := .write v } s = writeCmd v (s.respond .written) := by
  have ha : Access.isAlignedWord { off := 0x00#5, width := .word, kind := .write v } = true := by rfl
  have hn : Access.regNumber { off := 0x00#5, width := .word, kind := .write v } = 0 := by simp [Access.regNumber]
  simp only [hostAccess, hr, ha, hn, Bool.not_true, Bool.false_eq_true, if_false, writeReg]

/-- No command touches the schedule. -/
theorem exec_schedule {i : Instr} {s t : State} (h : exec i s = .next t) :
    t.turns = s.turns ∧ t.gapIndex = s.gapIndex ∧ t.gapTurns = s.gapTurns := by
  rcases exec_cases h with ⟨-, rfl⟩ | ⟨-, rfl | ⟨_, rfl⟩ | ⟨_, rfl⟩ | ⟨_, _, _, _, rfl⟩ | rfl⟩ <;> exact ⟨rfl, rfl, rfl⟩

/-- No host access touches the schedule. -/
theorem hostAccess_schedule {a : Access} {s t : State} (h : hostAccess a s = .next t) :
    t.turns = s.turns ∧ t.gapIndex = s.gapIndex ∧ t.gapTurns = s.gapTurns := by
  rcases hostAccess_cases h with ⟨-, rfl⟩ | ⟨-, -, rfl⟩ | ⟨-, -, ⟨-, rfl⟩ | ⟨v, -, ⟨-, hw⟩ | ⟨-, rfl⟩ | ⟨-, rfl⟩⟩⟩
  · exact ⟨rfl, rfl, rfl⟩
  · exact ⟨rfl, rfl, rfl⟩
  · exact ⟨rfl, rfl, rfl⟩
  · rcases writeCmd_cases hw with ⟨i, -, he⟩ | ⟨e, -, ⟨-, rfl⟩ | ⟨-, rfl⟩⟩
    · exact (exec_schedule he :)
    · exact ⟨rfl, rfl, rfl⟩
    · exact ⟨rfl, rfl, rfl⟩
  · exact ⟨rfl, rfl, rfl⟩
  · exact ⟨rfl, rfl, rfl⟩

/-- Once a turn is chosen, taking it does not touch the schedule. -/
theorem takeTurn_schedule {u : Turn} {s t : State} (h : takeTurn u s = .next t) :
    t.turns = s.turns ∧ t.gapIndex = s.gapIndex ∧ t.gapTurns = s.gapTurns := by
  match u, h with
  | .rst level, h =>
    obtain rfl := Host.Outcome.next.inj h
    cases level <;> exact ⟨rfl, rfl, rfl⟩
  | .agent .engine, h =>
    obtain rfl := Host.Outcome.next.inj h
    rcases engineStep_cases s with ⟨he, -⟩ | ⟨e, rest, -, -, he⟩ <;> rw [he] <;> exact ⟨rfl, rfl, rfl⟩
  | .agent .host, h =>
    simp only [takeTurn, hostTurn] at h
    split at h
    · obtain rfl := Host.Outcome.next.inj h; exact ⟨rfl, rfl, rfl⟩
    · exact (hostAccess_schedule h :)
    · obtain rfl := Host.Outcome.next.inj h
      unfold waitRead
      split <;> exact ⟨rfl, rfl, rfl⟩

/-- What a step does to the schedule is what its choice of a turn does: the schedule's head is taken, or where there is
none, the running gap gets one more turn of the host or ends with a turn of the engine. -/
theorem step_schedule {s t : State} (h : step s = .next t) :
    (∃ u, s.turns = u :: t.turns ∧ (nextTurn s).1 = u)
      ∨ (s.turns = [] ∧ t.turns = [] ∧ s.gapTurns < Config.freeGap s.gapIndex ∧ (nextTurn s).1 = .agent .host
          ∧ t.gapIndex = s.gapIndex ∧ t.gapTurns = s.gapTurns + 1)
      ∨ (s.turns = [] ∧ t.turns = [] ∧ Config.freeGap s.gapIndex ≤ s.gapTurns
          ∧ (nextTurn s).1 = .agent .engine) := by
  have hs := takeTurn_schedule h
  cases hts : s.turns with
  | cons u us =>
    rw [nextTurn_scheduled hts] at hs
    exact .inl ⟨u, by rw [hs.1], by rw [nextTurn_scheduled hts]⟩
  | nil =>
    right
    rw [nextTurn_free hts] at hs ⊢
    rcases freeTurn_cases s with ⟨hg, hf⟩ | ⟨hg, hf⟩ <;> rw [hf] at hs ⊢
    · exact .inl ⟨rfl, hs.1.trans hts, hg, rfl, hs.2⟩
    · exact .inr ⟨rfl, hs.1.trans hts, hg, rfl⟩

end Sys2Proof.Machine
end

