-- ==== Sys2Proof/Laws/Waveform.lean ====
section
/-! SUPPORT. How the observations of an event list split over its parts, and the step lemmas of the event lists. -/

namespace Sys2Proof.Machine

theorem waveform_append (p : Pins) (es fs : List Event) :
    waveform p (es ++ fs) = waveform p es ++ waveform (performEvents p es) fs := by
  induction es generalizing p with
  | nil => rfl
  | cons e es ih => simp [waveform, performEvents_cons, ih]

theorem waveform_length (p : Pins) (es : List Event) : (waveform p es).length = es.length := by
  induction es generalizing p with
  | nil => rfl
  | cons e es ih => simp [waveform, ih]

theorem risingEdges_append (p : Pins) (es fs : List Event) :
    risingEdges p (es ++ fs) = risingEdges p es ++ risingEdges (performEvents p es) fs := by
  induction es generalizing p with
  | nil => rfl
  | cons e es ih => simp [risingEdges, performEvents_cons, ih]

theorem latchWindows_append (p : Pins) (es fs : List Event) :
    latchWindows p (es ++ fs) = latchWindows p es + latchWindows (performEvents p es) fs := by
  induction es generalizing p with
  | nil => simp [latchWindows, performEvents_nil]
  | cons e es ih => simp [latchWindows, performEvents_cons, ih, Nat.add_assoc]

theorem downFrom_succ (n : Nat) : downFrom (n + 1) = n :: downFrom n := rfl

theorem mem_downFrom {n i : Nat} : i ∈ downFrom n ↔ i < n := by
  induction n with
  | zero => simp [downFrom]
  | succ n ih => simp only [downFrom_succ, List.mem_cons, ih]; omega

theorem clockPulses_length (n : Nat) : (clockPulses n).length = 2 * n := by
  induction n with
  | zero => rfl
  | succ n ih => simp only [clockPulses, List.length_cons, ih]; omega

/-- The events of one bit: LATCH is raised first exactly when the bit lies in the trailing window. -/
theorem bitEvents_eq (w : Word) (n : BitVec 5) (i : Nat) :
    bitEvents w n i
      = if i < n.toNat then [.setLatch true, .setData (w.getLsbD i), .setClock true, .setClock false]
        else [.setData (w.getLsbD i), .setClock true, .setClock false] := by
  by_cases h : i < n.toNat
  · have hn : n ≠ 0 := by rintro rfl; simp at h
    rw [bitEvents, if_pos ⟨hn, h⟩, if_pos h]
    rfl
  · simp [bitEvents, h]

end Sys2Proof.Machine
end

