-- ==== Sys2Proof/Tests/Slice0.lean ====
section
/-! SUPPORT. Tests of the model on the vectors of spec/95_test_vectors.md, and for every statement with hypotheses a
witness that meets them. Expected values are the spec's, or worked out by hand from the rule that a docstring names. -/

namespace Sys2Proof.Tests

open Sys2Proof.Machine

/-! ## Well-formedness and decoding -/

theorem test_wf_refuses_channel_three :
    (Instr.render 0 3#2 false).wf = false ∧ legal (encode (.render 0 3#2 false)) = false := by decide

theorem test_wf_takes_the_last_channel : (Instr.render 0xFFFF#16 2#2 true).wf = true := by decide

theorem test_decode_nop : decode 0b0000_0000000000000000000000000000#32 = .ok .nop := by decide
theorem test_decode_setLod : decode 0b0001_0000_00000000_0000000000000011#32 = .ok (.setLod 3#16) := by decide
theorem test_decode_setHold : decode 0b0001_0001_00000000_0000000000000111#32 = .ok (.setHold 7#16) := by decide
theorem test_decode_setGdly : decode 0b0001_0010_00000000_0000000000000010#32 = .ok (.setGdly 2#16) := by decide
theorem test_decode_setAutoref :
    decode 0b0001_0011_00000000_1111111111111111#32 = .ok (.setAutoref 0xFFFF#16) := by decide
theorem test_decode_setGsedge : decode 0b0001_0100_00000000_0000000000000001#32 = .ok (.setGsedge 1#16) := by decide
theorem test_decode_setPchg : decode 0b0001_0101_00000000_0000000000000001#32 = .ok (.setPchg 1#16) := by decide
theorem test_decode_setEpwm : decode 0b0001_0110_00000000_0000000000000001#32 = .ok (.setEpwm 1#16) := by decide
theorem test_decode_setBluecomp :
    decode 0b0001_0111_00000000_0000000000000001#32 = .ok (.setBluecomp 1#16) := by decide
theorem test_decode_setDbledge :
    decode 0b0001_1000_00000000_0000000000000001#32 = .ok (.setDbledge 1#16) := by decide
theorem test_decode_setLgse1 : decode 0b0001_1001_00000000_0000000000000100#32 = .ok (.setLgse1 4#16) := by decide
theorem test_decode_setBrb : decode 0b0001_1010_00000000_0000000101010101#32 = .ok (.setBrb 0x155#16) := by decide
theorem test_decode_setBrg : decode 0b0001_1011_00000000_0000000100000001#32 = .ok (.setBrg 0x101#16) := by decide
theorem test_decode_setBrr : decode 0b0001_1100_00000000_0001001000110100#32 = .ok (.setBrr 0x1234#16) := by decide
theorem test_decode_setGain : decode 0b0001_1101_00000000_0000000000001000#32 = .ok (.setGain 8#16) := by decide
theorem test_decode_setPoker : decode 0b0001_1110_00000000_0000000000000001#32 = .ok (.setPoker 1#16) := by decide
theorem test_decode_setLgse2 : decode 0b0001_1111_00000000_0000000000001001#32 = .ok (.setLgse2 9#16) := by decide
theorem test_decode_shift :
    decode 0b0010_0000000_11111_1111111111111111#32 = .ok (.shift 0xFFFF#16 31#5) := by decide
theorem test_decode_setdata : decode 0b0011_000000000000000000000000000_1#32 = .ok (.setdata true) := by decide
theorem test_decode_unlock : decode 0b0100_0000000000000000000000000000#32 = .ok .unlock := by decide
theorem test_decode_fcload : decode 0b0101_0000000000000000000000000000#32 = .ok .fcload := by decide
theorem test_decode_render :
    decode 0b0110_000000000_1_10_1111111111111111#32 = .ok (.render 0xFFFF#16 2#2 true) := by decide

/-- The illegal words of V-T9, V-T10, the notes of sections 4 and 5, and V-E1 to V-E4. -/
theorem test_decode_illegal :
    [0x30000002#32, 0x00000001#32, 0x10010000#32, 0x60030000#32, 0x6007FFFF#32, 0x60080000#32, 0x70000000#32,
      0xF0000000#32, 0x80000000#32, 0x40000001#32, 0x20200000#32].all
        (fun v => !legal v && (decode v).toOption == none) = true := by decide

theorem test_decodeTableWord_render :
    decodeTableWord 32 0x6002000F = some (.render 15#16 2#2 false) ∧ decodeTableWord 32 0x70000000 = none := by decide

/-! ## One command each -/

/-- The state an outcome goes on in. -/
def outState : Host.Outcome State Fault Refusal → Option State
  | .next s => some s
  | .fault _ => none
  | .refused _ => none

/-- The FC word after a command accepted with the FC word `fc`, if nothing else of the state changed. -/
def fcAfter (fc : FcWord) (i : Instr) : Option FcWord :=
  (outState (exec i { State.reset with fc := fc })).bind fun t =>
    if t = { State.reset with fc := t.fc } then some t.fc else none

/-- The FC word of all ones, from which the vectors of section 4 start a second time. -/
def ones : FcWord := 0xFFFFFFFFFFFF#48

/-- V-C2, V-C3. -/
theorem test_setLod : fcAfter 0 (.setLod 3) = some 0x3#48 ∧ fcAfter ones (.setLod 4) = some 0xFFFFFFFFFFFC#48 := by decide
/-- V-C4, V-C5. -/
theorem test_setHold : fcAfter 0 (.setHold 2) = some 0x8#48 ∧ fcAfter ones (.setHold 7) = some 0xFFFFFFFFFFF3#48 := by decide
/-- V-C7, V-C8. -/
theorem test_setGdly : fcAfter 0 (.setGdly 2) = some 0x10#48 ∧ fcAfter ones (.setGdly 0) = some 0xFFFFFFFFFFEF#48 := by decide
/-- V-C9, and R109 for operand 0. -/
theorem test_setAutoref :
    fcAfter 0 (.setAutoref 0xFFFF) = some 0x20#48 ∧ fcAfter ones (.setAutoref 0) = some 0xFFFFFFFFFFDF#48 := by decide
/-- V-C10, and R110 for operand 0. -/
theorem test_setGsedge : fcAfter 0 (.setGsedge 1) = some 0x40#48 ∧ fcAfter ones (.setGsedge 0) = some 0xFFFFFFFFFFBF#48 := by decide
/-- V-C11, and R111 for operand 0. -/
theorem test_setPchg : fcAfter 0 (.setPchg 1) = some 0x80#48 ∧ fcAfter ones (.setPchg 0) = some 0xFFFFFFFFFF7F#48 := by decide
/-- V-C12, and R112 for operand 0. -/
theorem test_setEpwm : fcAfter 0 (.setEpwm 1) = some 0x100#48 ∧ fcAfter ones (.setEpwm 0) = some 0xFFFFFFFFFEFF#48 := by decide
/-- V-C13, and R113 for operand 0. -/
theorem test_setBluecomp :
    fcAfter 0 (.setBluecomp 1) = some 0x200#48 ∧ fcAfter ones (.setBluecomp 0) = some 0xFFFFFFFFFDFF#48 := by decide
/-- V-C14, and R114 for operand 0. -/
theorem test_setDbledge :
    fcAfter 0 (.setDbledge 1) = some 0x400#48 ∧ fcAfter ones (.setDbledge 0) = some 0xFFFFFFFFFBFF#48 := by decide
/-- V-C17 to V-C19. -/
theorem test_setLgse1 :
    fcAfter ones (.setLgse1 2) = some 0xFFFFFFFFE7FF#48 ∧ fcAfter ones (.setLgse1 3) = some ones
      ∧ fcAfter ones (.setLgse1 4) = some 0xFFFFFFFFC7FF#48 := by decide
/-- V-C21, V-C22. -/
theorem test_setBrb :
    fcAfter 0 (.setBrb 0x3FF) = some 0x0000007FC000#48 ∧ fcAfter ones (.setBrb 0x155) = some 0xFFFFFFD57FFF#48 := by decide
/-- V-C26, V-C27. -/
theorem test_setBrg :
    fcAfter 0 (.setBrg 0x101) = some 0x000080800000#48 ∧ fcAfter ones (.setBrg 0x200) = some 0xFFFF007FFFFF#48 := by decide
/-- V-C28, V-C29. -/
theorem test_setBrr :
    fcAfter 0 (.setBrr 0x1FF) = some 0x01FF00000000#48 ∧ fcAfter ones (.setBrr 0x1234) = some 0xFE34FFFFFFFF#48 := by decide
/-- V-C30, V-C32. -/
theorem test_setGain :
    fcAfter ones (.setGain 5) = some 0xFBFFFFFFFFFF#48 ∧ fcAfter ones (.setGain 8) = some 0xF1FFFFFFFFFF#48 := by decide
/-- V-C33, and R120 for operand 0. -/
theorem test_setPoker :
    fcAfter 0 (.setPoker 1) = some 0x100000000000#48 ∧ fcAfter ones (.setPoker 0) = some 0xEFFFFFFFFFFF#48 := by decide
/-- V-C35 to V-C37. -/
theorem test_setLgse2 :
    fcAfter ones (.setLgse2 2) = some 0xBFFFFFFFFFFF#48 ∧ fcAfter 0 (.setLgse2 3) = some 0xE00000000000#48
      ∧ fcAfter ones (.setLgse2 9) = some 0x1FFFFFFFFFFF#48 := by decide

/-- A vector as the one hex digit of the spec's notation. -/
def digit (p : Pins) : Nat :=
  (if p.data then 1 else 0) + (if p.clock then 2 else 0) + (if p.latch then 4 else 0) + (if p.halo then 8 else 0)

/-- The events of a command accepted in a state. -/
def eventsOf (i : Instr) (s : State) : List Event := ((outState (exec i s)).map State.queue).getD []

/-- The full waveform of a command accepted in a state, in the spec's digits. -/
def digitsOf (i : Instr) (s : State) : List Nat := (waveform s.pins (eventsOf i s)).map digit

/-- The numbers of the rising edges under latch, counted from 1. -/
def latchEdges (p : Pins) (es : List Event) : List Nat :=
  (((risingEdges p es).zipIdx 1).filter fun e => e.1.latch).map Prod.snd

/-- Reset, but with the DATA line at 1. -/
def dataHigh : State := { State.reset with pins := { Pins.low with data := true } }

/-- V-T10. -/
theorem test_nop : outState (exec .nop State.reset) = some State.reset := by decide

/-- V-T1: the full waveform. -/
theorem test_shift_waveform :
    digitsOf (.shift 0xACDC 3) State.reset
      = [1,3,1,0,2,0,1,3,1,0,2,0,1,3,1,1,3,1,0,2,0,0,2,0,1,3,1,1,3,1,0,2,0,1,3,1,1,3,1,5,5,7,5,5,4,6,4,4,4,6,4,0] := by
  decide +kernel

/-- V-T6 and V-T8: a latch count from 16 up puts all 16 edges under latch. -/
theorem test_shift_latch_counts :
    latchEdges Pins.low (eventsOf (.shift 0 31) State.reset) = [1,2,3,4,5,6,7,8,9,10,11,12,13,14,15,16]
      ∧ (eventsOf (.shift 0xFFFF 17) State.reset).length = 65
      ∧ latchEdges Pins.low (eventsOf (.shift 0x8001 1) State.reset) = [16] := by decide +kernel

/-- V-T9. -/
theorem test_setdata :
    digitsOf (.setdata true) State.reset = [1] ∧ digitsOf (.setdata false) dataHigh = [0] := by decide

/-- V-U2: the merged waveform of an UNLOCK with DATA at 1. -/
theorem test_unlock_waveform :
    (mergedWaveform dataHigh.pins (eventsOf .unlock dataHigh)).map digit
      = [1,5,7,5,7,5,7,5,7,5,7,5,7,5,7,5,7,5,7,5,7,5,7,5,7,5,7,5,7,5,7,5,1] := by decide +kernel

/-- V-L1: the data at the 48 edges, the latch edges and the number of events. -/
theorem test_fcload_waveform :
    let es := eventsOf .fcload { dataHigh with fc := 0x123456789ABC#48 }
    (risingEdges dataHigh.pins es).map Pins.data
        = (List.range 48).map (fun j => (0b000100100011010001010110011110001001101010111100#48).getMsbD j)
      ∧ latchEdges dataHigh.pins es = [44, 45, 46, 47, 48] ∧ es.length = 152 := by decide +kernel

/-- RESULT as the host reads it after a RENDER from reset. -/
def resultAfter (i : Instr) : Option Word32 := (outState (exec i State.reset)).map fun t => t.readReg 5

/-- V-R1 to V-R6. -/
theorem test_render_result :
    resultAfter (.render 0 2 false) = some 0x001#32 ∧ resultAfter (.render 16 2 false) = some 0x000#32
      ∧ resultAfter (.render 15 2 false) = some 0xFF1#32 ∧ resultAfter (.render 0xFFFF 2 false) = some 0xFF0#32
      ∧ resultAfter (.render 5 0 true) = some 0xA51#32 ∧ resultAfter (.render 0 2 true) = some 0xF01#32 := by
  decide +kernel

/-- V-R5: the edges with DATA at 1, the latch edges and the end of the frame. -/
theorem test_render_waveform :
    let es := eventsOf (.render 5 0 true) State.reset
    (((risingEdges Pins.low es).zipIdx 1).filter fun e => e.1.data).map Prod.snd
        = [241,242,243,244,245,246,247,248,249,250,251,252,253,254,255,256]
      ∧ latchEdges Pins.low es = [48,96,144,192,240,288,336,384,432,480,528,576,624,672,720,766,767,768]
      ∧ digit (performEvents Pins.low es) = 8 := by decide +kernel

/-- The command words of a host program, with 0 for WAIT. -/
def words (as : List HostAction) : List Word32 :=
  as.map fun
    | .access { kind := .write v, .. } => v
    | .access { kind := .read, .. } => 0#32
    | .wait => 0#32

/-- The example preset of program P1. -/
def presetP1 : FcPreset :=
  { lod := 1, hold := 2, gdly := 1, autoref := 0, gsedge := 0, pchg := 1, epwm := 1, bluecomp := 0, dbledge := 0
    lgse1 := 2, brb := 0x155, brg := 0x0AA, brr := 0x1FF, gain := 5, poker := 0, lgse2 := 3 }

/-- P1: the words of the init program, and the FC word after its setters. -/
theorem test_init_program :
    words (initProgram presetP1)
        = [0x30000001#32, 0, 0x40000000#32, 0, 0x10000001#32, 0x11000002#32, 0x12000001#32, 0x13000000#32,
          0x14000000#32, 0x15000001#32, 0x16000001#32, 0x17000000#32, 0x18000000#32, 0x19000002#32, 0x1A000155#32,
          0x1B0000AA#32, 0x1C0001FF#32, 0x1D000005#32, 0x1E000000#32, 0x1F000003#32, 0x50000000#32, 0]
      ∧ (outState (execAll presetP1.setters State.reset)).map State.fc = some 0xEBFF55556199#48 := by decide +kernel

/-! ## One step of the host port -/

/-- The host's turn, with one action. -/
def hostState (a : HostAction) : State := { State.reset with turns := [.agent .host], host := [a] }

/-- The host's turn while one event is pending. -/
def busyState (a : HostAction) : State := { hostState a with queue := [.setData true] }

/-- The engine's turn with some pending events. -/
def engineState (q : List Event) : State := { State.reset with turns := [.agent .engine], queue := q }

/-- A byte or halfword access. -/
def narrow (w : Width) (off : Offset) (k : AccessKind) : HostAction := .access { off := off, width := w, kind := k }

/-- STATUS as it reads after one step. -/
def statusAfter (s : State) : Option Word32 := (outState (step s)).map fun t => t.readReg 1

/-- The bus's answer of one step. -/
def answer (s : State) : Option Response := (outState (step s)).bind State.resp

/-- V-E1, V-E3, V-E6, V-E7: errors of CMD writes. -/
theorem test_cmd_errors :
    statusAfter (hostState (cmdWrite 0x70000000#32)) = some 0x2#32
      ∧ statusAfter (hostState (cmdWrite 0x40000001#32)) = some 0x2#32
      ∧ statusAfter (busyState (cmdWrite 0x70000000#32)) = some 0x5#32
      ∧ statusAfter (busyState (cmdWrite 0x20001234#32)) = some 0x5#32 := by decide

/-- V-E8 to V-E10: writes to STATUS. -/
theorem test_status_writes :
    statusAfter { hostState (wr .status 0x2#32) with errIll := true, errBusy := true } = some 0x4#32
      ∧ statusAfter { hostState (wr .status 0x1#32) with errIll := true, errBusy := true } = some 0x6#32
      ∧ statusAfter { busyState (wr .status 0x4#32) with errBusy := true } = some 0x1#32 := by decide

/-- V-E11, and R34, R36 for FC_HIGH and PINS: reads. -/
theorem test_reads :
    answer (hostState (rd .cmd)) = some (.value 0#32) ∧ answer (hostState (rd .reserved)) = some (.value 0#32)
      ∧ answer { hostState (rd .fcHigh) with fc := 0xF1FF007FC7ED#48 } = some (.value 0xF1FF#32)
      ∧ answer { hostState (rd .pins) with pins := { Pins.low with data := true, halo := true } }
          = some (.value 0x9#32) := by decide

/-- V-E13 to V-E15: bus errors. -/
theorem test_bus_errors :
    answer (hostState (narrow .byte 0x00#5 (.write 0#32))) = some (.fault (.busError 0x00#5))
      ∧ answer (hostState (narrow .word 0x06#5 .read)) = some (.fault (.busError 0x06#5))
      ∧ statusAfter (busyState (narrow .half 0x00#5 (.write 0#32))) = some 0x1#32 := by decide

/-- V-U3, last line: RST drops the pending events and clears the pins. -/
theorem test_reset_drops_events :
    outState (step
        { State.reset with
          pins := { Pins.low with latch := true }, queue := [.setClock true], fc := 5#48, turns := [.rst true] })
      = some { State.reset with rst := true, wave := [.reset] } := by decide

/-! ## Witnesses: the hypotheses of the statements can be met -/

theorem witness_DecodeInvertsEncode :
    (Instr.render 0xFFFF#16 2#2 true).wf = true ∧ (Instr.shift 0xFFFF#16 31#5).wf = true := by decide

theorem witness_EncodeInvertsDecode : decode 0x6006FFFF#32 = .ok (.render 0xFFFF#16 2#2 true) := by decide

theorem witness_StepRunsTheWrittenCommand :
    let s := hostState (cmdWrite 0x50000000#32)
    s.rst = false ∧ s.turns = .agent .host :: [] ∧ s.host = cmdWrite 0x50000000#32 :: []
      ∧ decode 0x50000000#32 = .ok .fcload := by decide

theorem witness_PlacedWordRunsNext : decodeTableWord 32 0x2003ACDC = some (.shift 0xACDC#16 3#5) := by decide

theorem witness_IllegalWordsOnlySetErrIll :
    let s := hostState (cmdWrite 0x70000000#32)
    let b := busyState (cmdWrite 0x60030000#32)
    (s.rst = false ∧ s.turns = .agent .host :: [] ∧ s.host = cmdWrite 0x70000000#32 :: []
        ∧ legal 0x70000000#32 = false ∧ s.queue = [])
      ∧ (b.rst = false ∧ b.turns = .agent .host :: [] ∧ b.host = cmdWrite 0x60030000#32 :: []
        ∧ legal 0x60030000#32 = false ∧ b.queue ≠ []) := by decide

theorem witness_BusyWritesOnlySetErrBusy :
    let s := busyState (cmdWrite 0x20001234#32)
    s.rst = false ∧ s.turns = .agent .host :: [] ∧ s.host = cmdWrite 0x20001234#32 :: [] ∧ s.queue ≠ [] := by decide

theorem witness_BusyCommandsAreDropped : (busyState .wait).queue ≠ [] := by decide

theorem witness_NonWordAccessesAreBusErrors :
    [({ off := 0x00#5, width := .byte, kind := .write 0#32 } : Access), { off := 0x1C#5, width := .half, kind := .read },
      { off := 0x01#5, width := .word, kind := .read }, { off := 0x1F#5, width := .word, kind := .write 1#32 }].all
      (fun a =>
        decide ((hostState (.access a)).rst = false ∧ (hostState (.access a)).turns = .agent .host :: []
          ∧ (hostState (.access a)).host = .access a :: [] ∧ (a.width ≠ .word ∨ a.off.toNat % 4 ≠ 0))) = true := by
  decide

theorem witness_WordReadsDeliverTheRegister :
    [HostReg.cmd, .status, .fcLow, .fcMid, .fcHigh, .result, .pins, .reserved].all
      (fun r =>
        decide ((hostState (rd r)).rst = false ∧ (hostState (rd r)).turns = .agent .host :: []
          ∧ (hostState (rd r)).host = .access { off := r.offset, width := .word, kind := .read } :: []
          ∧ r.offset.toNat % 4 = 0)) = true := by decide

theorem witness_RegisterWritesClearOrAreIgnored :
    let s := hostState (wr .status 0x6#32)
    let f := busyState (wr .fcLow 0xFFFF#32)
    let e := hostState (wr .reserved 0xFFFF#32)
    (s.rst = false ∧ s.turns = .agent .host :: []
        ∧ s.host = .access { off := 0x04#5, width := .word, kind := .write 0x6#32 } :: [])
      ∧ (f.rst = false ∧ f.turns = .agent .host :: []
        ∧ f.host = .access { off := 0x08#5, width := .word, kind := .write 0xFFFF#32 } :: []
        ∧ (0x08#5).toNat % 4 = 0 ∧ 0x08 ≤ (0x08#5).toNat)
      ∧ (e.rst = false ∧ e.turns = .agent .host :: []
        ∧ e.host = .access { off := 0x1C#5, width := .word, kind := .write 0xFFFF#32 } :: []
        ∧ (0x1C#5).toNat % 4 = 0 ∧ 0x08 ≤ (0x1C#5).toNat) := by decide

theorem witness_WaitEndsWhenNotBusy :
    let s := hostState .wait
    let b := busyState .wait
    (s.rst = false ∧ s.turns = .agent .host :: [] ∧ s.host = .wait :: [] ∧ s.queue = [])
      ∧ (b.rst = false ∧ b.turns = .agent .host :: [] ∧ b.host = .wait :: [] ∧ b.queue ≠ []) := by decide

theorem witness_WindowIsThirtyTwoBytesAtBase :
    0x40 % 32 = 0 ∧ platformOffset 0x40 0x3F = none ∧ platformOffset 0x40 0x40 = some 0x00#5
      ∧ platformOffset 0x40 0x5F = some 0x1F#5 ∧ platformOffset 0x40 0x60 = none := by decide

/-- An idle block, and one already in reset; the first has a pin to clear. -/
theorem witness_AssertingRstResetsTheBlock :
    let s := { dataHigh with turns := [.rst true], queue := [.setClock true] }
    let r := { State.reset with turns := [.rst true], rst := true }
    (s.turns = .rst true :: [] ∧ s.rst = false) ∧ (r.turns = .rst true :: [] ∧ r.rst = true) := by decide

theorem witness_RstHoldsTheBlock :
    let s := { State.reset with rst := true }
    let e := { s with turns := [.agent .engine] }
    let h := { s with turns := [.agent .host], host := [cmdWrite 0x40000000#32] }
    let w := { s with turns := [.agent .host], host := [.wait] }
    let d := { s with turns := [.rst false] }
    (e.rst = true ∧ e.turns = .agent .engine :: [])
      ∧ (h.rst = true ∧ h.turns = .agent .host :: []
        ∧ h.host = .access { off := 0x00#5, width := .word, kind := .write 0x40000000#32 } :: [])
      ∧ (w.rst = true ∧ w.turns = .agent .host :: [] ∧ w.host = .wait :: [])
      ∧ (d.rst = true ∧ d.turns = .rst false :: []) := by decide

theorem witness_EngineStepPerformsTheHead :
    [[], [Event.setData true], [.setClock true, .setClock false], [.setLatch false], [.setHalo true]].all
      (fun q =>
        decide ((engineState q).rst = false ∧ (engineState q).turns = .agent .engine :: []
          ∧ (engineState q).queue = q)) = true := by decide

theorem witness_EngineRunPerformsEventsInOrder :
    let s := { State.reset with
      turns := [.agent .engine, .agent .engine, .agent .host]
      queue := [.setData true, .setClock true, .setClock false] }
    s.rst = false ∧ s.turns = List.replicate 2 (.agent .engine) ++ [.agent .host] ∧ 2 ≤ s.queue.length := by decide

theorem witness_ServedEngineEmptiesTheQueue :
    let s := { busyState (cmdWrite 0x40000000#32) with
      turns := [.agent .host, .agent .engine, .agent .host] }
    s.rst = false ∧ s.turns = [.agent .host, .agent .engine] ++ [.agent .host]
      ∧ noReset [.agent .host, .agent .engine] = true
      ∧ s.queue.length ≤ engineTurns [.agent .host, .agent .engine] := by decide

theorem witness_RedundantEventsAreInvisible :
    performEvent (performEvents Pins.low [.setData true]) (.setData true) = performEvents Pins.low [.setData true] := by
  decide

/-- For the four statements about setters: an idle state, and each clause at the ends of its range. -/
theorem witness_setters :
    State.reset.queue = []
      ∧ fcAfter 0 (.setAutoref 1) = some 0x20#48 ∧ fcAfter ones (.setAutoref 0xFFFF) = some ones
      ∧ fcAfter 0 (.setLod 4) = some 0#48 ∧ fcAfter 0 (.setHold 3) = some 0xC#48
      ∧ fcAfter 0 (.setGain 7) = some 0x0E0000000000#48 ∧ fcAfter 0 (.setGain 8) = some 0#48
      ∧ fcAfter 0 (.setLgse1 3) = some 0x3800#48 ∧ fcAfter 0 (.setLgse1 4) = some 0#48
      ∧ fcAfter 0 (.setBrr 511) = some 0x01FF00000000#48 ∧ fcAfter 0 (.setBrr 512) = some 0#48 := by decide

theorem witness_SettersOfDifferentFieldsCommute : (0xA#4 ≠ 0xB#4) ∧ State.reset.queue = [] := by decide

/-- For LastSetterOfAFieldWins and for the statements about NOP, SETDATA, SHIFT, UNLOCK and FCLOAD. -/
theorem witness_idle : State.reset.queue = [] ∧ dataHigh.queue = [] := by decide

theorem witness_SixteenSettersDetermineTheFcWord :
    State.reset.queue = [] ∧ ({ State.reset with fc := ones }).queue = [] := by decide

/-- For the waveform statements: ShiftWaveformHasSixteenEdges, UnlockQueuesFifteenPulsesUnderLatch,
FcloadStreamsTheFcWordMsbFirst. -/
theorem witness_quiet_lines :
    dataHigh.queue = [] ∧ dataHigh.pins.clock = false ∧ dataHigh.pins.latch = false := by decide

/-- For RenderWritesResultAndQueuesTheFrame and RenderWaveformLightsOneWord: the lowest and the highest channel. -/
theorem witness_render :
    State.reset.queue = [] ∧ (0#2).toNat < 3 ∧ (2#2).toNat < 3 ∧ State.reset.pins.clock = false
      ∧ State.reset.pins.latch = false := by decide

theorem witness_RenderOfChannelThreeIsIllegal : State.reset.queue = [] := by decide

theorem witness_EventCountsOfTheCommands : (Instr.render 0 2#2 false).wf = true := by decide

/-- A setter and a RENDER accepted, and a command dropped. -/
theorem witness_CommandsChangeOnlyTheirOwnState :
    (∃ t, exec (.setLod 3) State.reset = .next t ∧ (Instr.setLod 3).wf = true ∧ State.reset.queue = [])
      ∧ (∃ t, exec (.render 0 0 false) State.reset = .next t ∧ (Instr.render 0 0 false).wf = true
        ∧ isSetter (.render 0 0 false) = false)
      ∧ (∃ t, exec .unlock (busyState .wait) = .next t ∧ Instr.unlock.wf = true ∧ isRender .unlock = false
        ∧ (busyState .wait).queue ≠ []) :=
  ⟨⟨_, rfl, by decide⟩, ⟨_, rfl, by decide⟩, ⟨_, rfl, by decide⟩⟩

/-- An accepted command and a dropped one. -/
theorem witness_CommandsDoNotReadErrorBits :
    (∃ t, exec .unlock State.reset = .next t ∧ Instr.unlock.wf = true ∧ State.reset.queue = [])
      ∧ (∃ t, exec .unlock (busyState .wait) = .next t ∧ (busyState .wait).queue ≠ []) :=
  ⟨⟨_, rfl, by decide⟩, ⟨_, rfl, by decide⟩⟩

/-- By a setter, and by a reset. -/
theorem witness_OnlySettersAndResetChangeFc :
    (∃ t, step (hostState (cmdWrite 0x10000003#32)) = .next t
        ∧ t.fc ≠ (hostState (cmdWrite 0x10000003#32)).fc)
      ∧ (∃ t, step { State.reset with fc := ones, turns := [.rst true] } = .next t ∧ t.fc ≠ ones) :=
  ⟨⟨_, rfl, by decide⟩, ⟨_, rfl, by decide⟩⟩

/-- Each of the three result fields, by a RENDER; and by a reset. -/
theorem witness_OnlyRenderAndResetChangeTheResult :
    (∃ t, step (hostState (cmdWrite 0x60020001#32)) = .next t ∧ t.resInrange ≠ false ∧ t.resKidx ≠ 0#4
        ∧ t.resLitpos ≠ 0#4)
      ∧ (∃ t, step { State.reset with resInrange := true, turns := [.rst true] } = .next t ∧ t.resInrange ≠ true) :=
  ⟨⟨_, rfl, by decide⟩, ⟨_, rfl, by decide⟩⟩

theorem witness_OnlyEventsAndResetChangeThePins :
    (∃ t, step (engineState [.setHalo true]) = .next t ∧ t.pins ≠ (engineState [.setHalo true]).pins)
      ∧ (∃ t, step { dataHigh with turns := [.rst true] } = .next t ∧ t.pins ≠ dataHigh.pins) :=
  ⟨⟨_, rfl, by decide⟩, ⟨_, rfl, by decide⟩⟩

theorem witness_ErrorBitsAreSticky :
    (∃ t, step { hostState (wr .status 0x2#32) with errIll := true } = .next t ∧ t.errIll = false)
      ∧ (∃ t, step { hostState (wr .status 0x4#32) with errBusy := true } = .next t ∧ t.errBusy = false)
      ∧ (∃ t, step { State.reset with errIll := true, errBusy := true, turns := [.rst true] } = .next t
        ∧ t.errIll = false ∧ t.errBusy = false) :=
  ⟨⟨_, rfl, by decide⟩, ⟨_, rfl, by decide⟩, ⟨_, rfl, by decide⟩⟩

theorem witness_OneAccessSetsAtMostOneErrorBit :
    (∃ t, step (hostState (cmdWrite 0x70000000#32)) = .next t ∧ t.errIll = true)
      ∧ (∃ t, step (busyState (cmdWrite 0x70000000#32)) = .next t ∧ t.errBusy = true) :=
  ⟨⟨_, rfl, by decide⟩, ⟨_, rfl, by decide⟩⟩

/-- The engine's turn, the host's turn, and a reset. -/
theorem witness_NothingButResetInterruptsACommand :
    (∃ t, step (engineState [.setData true]) = .next t ∧ (engineState [.setData true]).queue = .setData true :: []
        ∧ (nextTurn (engineState [.setData true])).1 ≠ .rst true)
      ∧ (∃ t, step (busyState (cmdWrite 0x40000000#32)) = .next t
        ∧ (busyState (cmdWrite 0x40000000#32)).queue = .setData true :: []
        ∧ (nextTurn (busyState (cmdWrite 0x40000000#32))).1 ≠ .rst true)
      ∧ (∃ t, step { engineState [.setData true] with turns := [.rst true] } = .next t
        ∧ (nextTurn { engineState [.setData true] with turns := [.rst true] }).1 = .rst true) :=
  ⟨⟨_, rfl, by decide⟩, ⟨_, rfl, by decide⟩, ⟨_, rfl, by decide⟩⟩

/-- A busy state that meets the invariant: one event of a SETDATA is pending. -/
theorem busyState_inv : (busyState (cmdWrite 0x40000000#32)).Inv where
  reset_held h := absurd h (by decide)
  one_command := ⟨.setdata true, 0, rfl, ⟨[], rfl⟩⟩
  lines_settle := by decide
  lgse1_storable := by decide
  lgse2_storable := by decide
  result_consistent := by decide
  wave_current := by decide

theorem witness_EveryStepKeepsTheInvariant :
    (busyState (cmdWrite 0x40000000#32)).Inv ∧ ∃ t, step (busyState (cmdWrite 0x40000000#32)) = .next t :=
  ⟨busyState_inv, _, rfl⟩

/-- The statement's own second clause is met by the state with nothing pending. -/
theorem witness_InvariantBoundsTheQueueAndTheLines :
    (busyState (cmdWrite 0x40000000#32)).Inv
      ∧ (∃ s : State, s.Inv ∧ s.queue = []) := by
  refine ⟨busyState_inv, { State.reset with turns := [.agent .host] }, ?_, rfl⟩
  exact
    { reset_held := fun h => absurd h (by decide)
      one_command := ⟨.nop, 0, rfl, ⟨[], rfl⟩⟩
      lines_settle := by decide
      lgse1_storable := by decide
      lgse2_storable := by decide
      result_consistent := by decide
      wave_current := by decide }

/-- The run of a state whose host has nothing to do. -/
def quietRun (s : State) : Nat → State
  | 0 => s
  | n + 1 => (outState (step (quietRun s n))).getD (quietRun s n)

theorem quiet_step {s : State} (h : s.host = []) : ∃ t, step s = .next t ∧ t.host = [] := by
  have hf : (nextTurn s).2.host = [] := by rw [nextTurn_frame]; exact h
  unfold step
  match (nextTurn s).1 with
  | .agent .host => exact ⟨_, by simp only [takeTurn, hostTurn, hf], hf⟩
  | .agent .engine =>
    refine ⟨_, rfl, ?_⟩
    rcases engineStep_cases (nextTurn s).2 with ⟨he, -⟩ | ⟨e, rest, -, -, he⟩ <;> rw [he] <;> exact hf
  | .rst level => exact ⟨_, rfl, by cases level <;> exact hf⟩

theorem quietRun_isRun {s : State} (h : s.host = []) : IsRun (quietRun s) := by
  have quiet : ∀ n, (quietRun s n).host = [] := by
    intro n
    induction n with
    | zero => exact h
    | succ n ih =>
      obtain ⟨t, ht, hq⟩ := quiet_step ih
      simpa [quietRun, ht, outState] using hq
  intro n
  obtain ⟨t, ht, -⟩ := quiet_step (quiet n)
  simp [quietRun, ht, outState]

/-- A run that begins with an event pending and nothing scheduled. -/
theorem witness_EveryRunIsFair :
    IsRun (quietRun { State.reset with queue := [.setData true] })
      ∧ (quietRun { State.reset with queue := [.setData true] } 0).queue ≠ [] :=
  ⟨quietRun_isRun rfl, by decide⟩

/-- With a scheduled turn of the host, and with nothing scheduled. -/
theorem witness_PendingEventsAreAllPerformed :
    let s := busyState (cmdWrite 0x40000000#32)
    let f := { s with turns := [] }
    (s.rst = false ∧ noReset s.turns = true ∧ s.queue ≠ [])
      ∧ (f.rst = false ∧ noReset f.turns = true ∧ f.queue ≠ []) := by decide

end Sys2Proof.Tests
end

section
/-! PROOFS. The family spec/10_state.md: what a step can do to the block, what each kind of command does, and the
invariant that every step keeps. -/

namespace Sys2Proof.Machine

/-! ## The state apart from what drives it -/

/-- The state `s` with the host's actions, the bus's answers and the schedule of `d`: the fields beside the block's own,
its reset input and the waveform. -/
def State.withDriver (s d : State) : State :=
  { s with
    host := d.host
    resp := d.resp
    busFault := d.busFault
    turns := d.turns
    gapIndex := d.gapIndex
    gapTurns := d.gapTurns }

@[simp] theorem State.withDriver_fc (s d : State) : (s.withDriver d).fc = s.fc := rfl
@[simp] theorem State.withDriver_pins (s d : State) : (s.withDriver d).pins = s.pins := rfl
@[simp] theorem State.withDriver_queue (s d : State) : (s.withDriver d).queue = s.queue := rfl
@[simp] theorem State.withDriver_errIll (s d : State) : (s.withDriver d).errIll = s.errIll := rfl
@[simp] theorem State.withDriver_errBusy (s d : State) : (s.withDriver d).errBusy = s.errBusy := rfl
@[simp] theorem State.withDriver_resInrange (s d : State) : (s.withDriver d).resInrange = s.resInrange := rfl
@[simp] theorem State.withDriver_resKidx (s d : State) : (s.withDriver d).resKidx = s.resKidx := rfl
@[simp] theorem State.withDriver_resLitpos (s d : State) : (s.withDriver d).resLitpos = s.resLitpos := rfl
@[simp] theorem State.withDriver_rst (s d : State) : (s.withDriver d).rst = s.rst := rfl
@[simp] theorem State.withDriver_host (s d : State) : (s.withDriver d).host = d.host := rfl
@[simp] theorem State.withDriver_resp (s d : State) : (s.withDriver d).resp = d.resp := rfl
@[simp] theorem State.withDriver_busFault (s d : State) : (s.withDriver d).busFault = d.busFault := rfl
@[simp] theorem State.withDriver_turns (s d : State) : (s.withDriver d).turns = d.turns := rfl
@[simp] theorem State.withDriver_gapIndex (s d : State) : (s.withDriver d).gapIndex = d.gapIndex := rfl
@[simp] theorem State.withDriver_gapTurns (s d : State) : (s.withDriver d).gapTurns = d.gapTurns := rfl
@[simp] theorem State.withDriver_wave (s d : State) : (s.withDriver d).wave = s.wave := rfl

/-- Choosing the next turn touches the driver only. -/
theorem nextTurn_withDriver (s : State) : (nextTurn s).2 = s.withDriver (nextTurn s).2 := by
  rw [nextTurn_frame]
  rfl

theorem present_withDriver {effect : State → State} {s d : State}
    (he : effect (s.withDriver d) = (effect s).withDriver d) :
    (s.withDriver d).present effect = (s.present effect).withDriver d := by
  by_cases hq : s.queue = []
  · rw [present_idle hq, present_idle (s := s.withDriver d) hq, he]
  · rw [present_busy hq, present_busy (s := s.withDriver d) hq]
    rfl

/-- A command does the same to the block whatever drives it, and answers a next state. -/
theorem exec_withDriver (i : Instr) (s d : State) :
    ∃ b, exec i s = .next b ∧ exec i (s.withDriver d) = .next (b.withDriver d) := by
  have present : ∀ effect : State → State, effect (s.withDriver d) = (effect s).withDriver d →
      ∃ b, accept effect s = .next b ∧ accept effect (s.withDriver d) = .next (b.withDriver d) :=
    fun effect he => ⟨s.present effect, rfl, congrArg _ (present_withDriver he)⟩
  cases i with
  | render f ch dir =>
    refine present _ ?_
    by_cases hc : ch = 3#2
    · simp only [hc, if_true]; rfl
    · simp only [hc, if_false]; rfl
  | _ => exact present _ rfl

/-! ## Aligned word accesses -/

theorem Access.isAlignedWord_iff (a : Access) : a.isAlignedWord = true ↔ a.width = .word ∧ a.off.toNat % 4 = 0 := by
  simp [Access.isAlignedWord, ← BitVec.toNat_inj]

theorem Access.isAlignedWord_word {off : Offset} (ha : off.toNat % 4 = 0) (kind : AccessKind) :
    Access.isAlignedWord { off := off, width := .word, kind := kind } = true :=
  (Access.isAlignedWord_iff _).2 ⟨rfl, ha⟩

theorem Access.regNumber_eq (a : Access) : a.regNumber = a.off.toNat / 4 := by
  have := a.off.isLt
  simp only [Access.regNumber, BitVec.extractLsb'_toNat, Nat.shiftRight_eq_div_pow]
  omega

/-- An aligned word write is known by its register number and its value. -/
theorem Access.eq_of_aligned_write {a : Access} {v : Word32} {off : Offset} (ha : a.isAlignedWord = true)
    (hk : a.kind = .write v) (hr : 4 * a.regNumber = off.toNat) :
    a = { off := off, width := .word, kind := .write v } := by
  obtain ⟨hw, hm⟩ := a.isAlignedWord_iff.1 ha
  rw [a.regNumber_eq] at hr
  have ho : a.off = off := BitVec.eq_of_toNat_eq (by omega)
  cases a
  simp_all

/-! ## What a step can do to the block -/

/-- What a turn can do to the block, its reset input and the waveform: an RST change, an engine step, a STATUS write, or
a word written to CMD. -/
inductive BlockStep (s : State) : Turn → State → Prop
  | assertRst : BlockStep s (.rst true) (s.setRst true)
  | releaseRst : BlockStep s (.rst false) (s.setRst false)
  | unchanged (a : Agent) : BlockStep s (.agent a) s
  | perform {e : Event} {rest : List Event} (hr : s.rst = false) (hq : s.queue = e :: rest) :
      BlockStep s (.agent .engine)
        { s with
          pins := performEvent s.pins e, queue := rest, wave := .event (performEvent s.pins e) :: s.wave }
  | clearErrors {v : Word32} {hs : List HostAction} (hr : s.rst = false) (hh : s.host = wr .status v :: hs) :
      BlockStep s (.agent .host) (s.clearErrors v)
  | illegal {v : Word32} {hs : List HostAction} {err : DecodeError} (hr : s.rst = false)
      (hh : s.host = cmdWrite v :: hs) (hd : decode v = .error err) :
      BlockStep s (.agent .host) (s.present State.flagIll)
  | command {v : Word32} {hs : List HostAction} {i : Instr} {b : State} (hr : s.rst = false)
      (hh : s.host = cmdWrite v :: hs) (hd : decode v = .ok i) (hx : exec i s = .next b) :
      BlockStep s (.agent .host) b

/-- Everything that a write to CMD at the head of the host's actions can do to the block. -/
theorem writeCmd_blockStep {s d t : State} {v : Word32} {hs : List HostAction} (hr : s.rst = false)
    (hh : s.host = cmdWrite v :: hs) (h : writeCmd v (s.withDriver d) = .next t) :
    ∃ b, BlockStep s (.agent .host) b ∧ t = b.withDriver d := by
  cases hd : decode v with
  | ok i =>
    obtain ⟨b, hb, hbd⟩ := exec_withDriver i s d
    have ht : exec i (s.withDriver d) = .next t := by simpa only [writeCmd, hd] using h
    exact ⟨b, .command hr hh hd hb, Host.Outcome.next.inj (ht.symm.trans hbd)⟩
  | error err =>
    have ht : (s.withDriver d).present State.flagIll = t :=
      Host.Outcome.next.inj (by simpa only [writeCmd, hd, accept] using h)
    exact ⟨_, .illegal hr hh hd, ht.symm.trans (present_withDriver rfl)⟩

/-- Everything that the access at the head of the host's actions can do to the block. -/
theorem hostAccess_blockStep {s d t : State} {a : Access} {hs : List HostAction} (hh : s.host = .access a :: hs)
    (h : hostAccess a (s.withDriver d) = .next t) :
    ∃ b d', BlockStep s (.agent .host) b ∧ t = b.withDriver d' := by
  rcases hostAccess_cases h with ⟨-, rfl⟩ | ⟨-, -, rfl⟩ | ⟨hr, ha, ⟨-, rfl⟩ | ⟨v, hk, hreg⟩⟩
  · exact ⟨s, d.respond .discarded, .unchanged _, rfl⟩
  · exact ⟨s, d.raiseBusError a.off, .unchanged _, rfl⟩
  · exact ⟨s, d.respond (.value ((s.withDriver d).readReg a.regNumber)), .unchanged _, rfl⟩
  · rcases hreg with ⟨hn, hw⟩ | ⟨hn, rfl⟩ | ⟨-, rfl⟩
    · obtain rfl := Access.eq_of_aligned_write (off := 0x00#5) ha hk (by simp [hn])
      obtain ⟨b, hb, ht⟩ := writeCmd_blockStep (s := s) (d := d.respond .written) hr hh hw
      exact ⟨b, _, hb, ht⟩
    · obtain rfl := Access.eq_of_aligned_write (off := 0x04#5) ha hk (by simp [hn])
      exact ⟨_, d.respond .written, .clearErrors hr hh, rfl⟩
    · exact ⟨s, d.respond .written, .unchanged _, rfl⟩

theorem waitRead_withDriver (rest : List HostAction) (s : State) :
    waitRead rest s = s.withDriver (waitRead rest s) := by
  unfold waitRead
  split <;> rfl

/-- Everything that a turn can do to the block. -/
theorem takeTurn_blockStep {u : Turn} {s d t : State} (hh : d.host = s.host)
    (h : takeTurn u (s.withDriver d) = .next t) : ∃ b d', BlockStep s u b ∧ t = b.withDriver d' := by
  match u, h with
  | .rst true, h => exact ⟨_, d, .assertRst, (Host.Outcome.next.inj h).symm⟩
  | .rst false, h => exact ⟨_, d, .releaseRst, (Host.Outcome.next.inj h).symm⟩
  | .agent .engine, h =>
    obtain rfl := Host.Outcome.next.inj h
    rcases engineStep_cases (s.withDriver d) with ⟨he, -⟩ | ⟨e, rest, hr, hq, he⟩
    · exact ⟨s, d, .unchanged _, he⟩
    · exact ⟨_, d, .perform hr hq, he⟩
  | .agent .host, h =>
    simp only [takeTurn, hostTurn, State.withDriver_host, hh] at h
    split at h
    · exact ⟨s, d, .unchanged _, (Host.Outcome.next.inj h).symm⟩
    · next a rest hs => exact hostAccess_blockStep (d := { d with host := rest }) hs h
    · obtain rfl := Host.Outcome.next.inj h
      exact ⟨s, _, .unchanged _, waitRead_withDriver _ (s.withDriver d)⟩

/-- Everything that a step can do to the block. -/
theorem step_blockStep {s t : State} (h : step s = .next t) :
    ∃ b d, BlockStep s (nextTurn s).1 b ∧ t = b.withDriver d := by
  unfold step at h
  rw [nextTurn_withDriver s] at h
  exact takeTurn_blockStep (by rw [nextTurn_frame]) h

/-! ## What each kind of command does when it is accepted -/

/-- Every setter is the one update of R101 on some field. -/
theorem exec_of_isSetter {i : Instr} (h : isSetter i = true) (s : State) :
    ∃ fld value, exec i s = fcset fld value s := by
  cases i with
  | nop | shift _ _ | setdata _ | unlock | fcload | render _ _ _ => simp [isSetter] at h
  | _ => exact ⟨_, _, rfl⟩

theorem commandEvents_of_isSetter {i : Instr} (h : isSetter i = true) (fc : FcWord) : commandEvents fc i = [] := by
  cases i with
  | nop | shift _ _ | setdata _ | unlock | fcload | render _ _ _ => simp [isSetter] at h
  | _ => rfl

theorem enqueue_nil_of_idle {s : State} (h : s.queue = []) : s.enqueue [] = s := by
  rw [State.enqueue, ← h]

/-- A command that is neither a setter nor RENDER only queues its events. -/
theorem exec_enqueues {i : Instr} (hs : isSetter i = false) (hr : isRender i = false) {s : State} (hq : s.queue = []) :
    exec i s = .next (s.enqueue (commandEvents s.fc i)) := by
  cases i with
  | nop =>
    show accept _ s = _
    rw [accept_idle hq]
    exact congrArg _ (enqueue_nil_of_idle hq).symm
  | shift _ _ | setdata _ | unlock | fcload => exact accept_idle hq
  | render _ _ _ => simp [isRender] at hr
  | _ => simp [isSetter] at hs

theorem exec_render_idle {f : Word} {ch : BitVec 2} {dir : Bool} {s : State} (hq : s.queue = []) (hc : ch ≠ 3#2) :
    exec (.render f ch dir) s
      = .next ((s.writeResult (frameInrange f) (frameKidx f) (frameLitpos f dir)).enqueue (renderEvents f ch dir)) := by
  simp only [exec, execRender, accept_idle hq, hc, if_false]

theorem exec_render_illegal {f : Word} {dir : Bool} {s : State} (hq : s.queue = []) :
    exec (.render f 3#2 dir) s = .next s.flagIll := by
  simp only [exec, execRender, accept_idle hq, if_true]

theorem eq_render_of_isRender {i : Instr} (h : isRender i = true) : ∃ f ch dir, i = .render f ch dir := by
  cases i with
  | render f ch dir => exact ⟨f, ch, dir, rfl⟩
  | _ => simp [isRender] at h

/-- Everything that an accepted command can do, by the kind of the command. -/
theorem exec_idle_cases {i : Instr} {s t : State} (hq : s.queue = []) (h : exec i s = .next t) :
    (isSetter i = true ∧ ∃ fld value, t = s.writeFc (insertField fld (pattern fld value) s.fc))
      ∨ (isSetter i = false ∧ isRender i = false ∧ t = s.enqueue (commandEvents s.fc i))
      ∨ (∃ f ch dir, i = .render f ch dir ∧ ch ≠ 3#2
          ∧ t = (s.writeResult (frameInrange f) (frameKidx f) (frameLitpos f dir)).enqueue (renderEvents f ch dir))
      ∨ (i.wf = false ∧ t = s.flagIll) := by
  cases hs : isSetter i with
  | true =>
    obtain ⟨fld, value, he⟩ := exec_of_isSetter hs s
    rw [he, fcset_idle fld value hq] at h
    exact .inl ⟨rfl, fld, value, (Host.Outcome.next.inj h).symm⟩
  | false =>
    right
    cases hr : isRender i with
    | false =>
      rw [exec_enqueues hs hr hq] at h
      exact .inl ⟨rfl, rfl, (Host.Outcome.next.inj h).symm⟩
    | true =>
      right
      obtain ⟨f, ch, dir, rfl⟩ := eq_render_of_isRender hr
      by_cases hc : ch = 3#2
      · subst hc
        rw [exec_render_illegal hq] at h
        exact .inr ⟨rfl, (Host.Outcome.next.inj h).symm⟩
      · rw [exec_render_idle hq hc] at h
        exact .inl ⟨f, ch, dir, rfl, hc, (Host.Outcome.next.inj h).symm⟩

/-- A command written while busy only sets ERR_BUSY. -/
theorem exec_busy {i : Instr} {s t : State} (hq : s.queue ≠ []) (h : exec i s = .next t) : t = s.flagBusy := by
  rcases exec_cases h with ⟨-, ht⟩ | ⟨hq', -⟩
  · exact ht
  · exact absurd hq' hq

/-! ## The lines after a command's events -/

/-- CLOCK and LATCH are 0. -/
def Pins.Settled (p : Pins) : Prop := p.clock = false ∧ p.latch = false

/-- LATCH is deasserted while CLOCK is 0. -/
theorem settled_of_setLatch_false {p : Pins} (hc : p.clock = false) : (performEvent p (.setLatch false)).Settled :=
  ⟨hc, rfl⟩

theorem settled_of_setHalo {p : Pins} (hp : p.Settled) (b : Bool) : (performEvent p (.setHalo b)).Settled := hp

theorem performEvents_concat (p : Pins) (es : List Event) (e : Event) :
    performEvents p (es ++ [e]) = performEvent (performEvents p es) e :=
  performEvents_append p es [e]

/-- What every part of an event list keeps, the whole list keeps. -/
theorem performEvents_flatMap_keeps {α : Type} {P : Pins → Prop} {f : α → List Event}
    (h : ∀ p a, P p → P (performEvents p (f a))) (l : List α) {p : Pins} (hp : P p) :
    P (performEvents p (l.flatMap f)) := by
  induction l generalizing p with
  | nil => exact hp
  | cons a l ih =>
    rw [List.flatMap_cons, performEvents_append]
    exact ih (h p a hp)

theorem performEvents_bitEvents_clock (w : Word) (n : BitVec 5) (p : Pins) (i : Nat) :
    (performEvents p (bitEvents w n i)).clock = false := by
  rw [bitEvents_eq]
  split <;> rfl

theorem performEvents_shiftEvents_settled (w : Word) (n : BitVec 5) {p : Pins} (hp : p.Settled) :
    (performEvents p (shiftEvents w n)).Settled := by
  have hc : (performEvents p ((downFrom wordWidth).flatMap (bitEvents w n))).clock = false :=
    performEvents_flatMap_keeps (P := fun q => q.clock = false)
      (fun q i _ => performEvents_bitEvents_clock w n q i) _ hp.1
  rw [shiftEvents, performEvents_concat]
  exact settled_of_setLatch_false hc

theorem performEvents_clockPulses_clock (n : Nat) {p : Pins} (hp : p.clock = false) :
    (performEvents p (clockPulses n)).clock = false := by
  induction n generalizing p with
  | zero => exact hp
  | succ n ih => exact ih rfl

theorem performEvents_unlockEvents_settled {p : Pins} (hp : p.Settled) : (performEvents p unlockEvents).Settled := by
  have hc : (performEvents (performEvent p (.setLatch true)) (clockPulses unlockClocks)).clock = false :=
    performEvents_clockPulses_clock _ hp.1
  rw [unlockEvents, List.cons_append, performEvents_cons, performEvents_concat]
  exact settled_of_setLatch_false hc

theorem performEvents_positionEvents_settled (litpos : BitVec 4) (ch : BitVec 2) (p : Pins) (k : Nat)
    (hp : p.Settled) : (performEvents p (positionEvents litpos ch k)).Settled :=
  performEvents_flatMap_keeps (fun _ _ hq => performEvents_shiftEvents_settled _ _ hq) _ hp

theorem performEvents_renderEvents_settled (f : Word) (ch : BitVec 2) (dir : Bool) {p : Pins} (hp : p.Settled) :
    (performEvents p (renderEvents f ch dir)).Settled := by
  rw [renderEvents, List.cons_append, performEvents_cons, performEvents_concat]
  exact settled_of_setHalo
    (performEvents_flatMap_keeps (performEvents_positionEvents_settled _ ch) _ (settled_of_setHalo hp false)) true

/-- From settled lines, a command's events leave settled lines (R26). -/
theorem performEvents_commandEvents_settled (fc : FcWord) (i : Instr) {p : Pins} (hp : p.Settled) :
    (performEvents p (commandEvents fc i)).Settled := by
  cases i with
  | shift word n => exact performEvents_shiftEvents_settled word n hp
  | setdata d => exact hp
  | unlock => exact performEvents_unlockEvents_settled hp
  | fcload =>
    rw [commandEvents, fcloadEvents, performEvents_append, performEvents_append]
    exact performEvents_shiftEvents_settled _ _
      (performEvents_shiftEvents_settled _ _ (performEvents_shiftEvents_settled _ _ hp))
  | render f ch dir => exact performEvents_renderEvents_settled f ch dir hp
  | _ => exact hp

/-! ## How long an event list is -/

theorem bitEvents_length (w : Word) (n : BitVec 5) (i : Nat) :
    (bitEvents w n i).length = if i < n.toNat then 4 else 3 := by
  rw [bitEvents_eq]
  split <;> rfl

theorem flatMap_bitEvents_length (w : Word) (n : BitVec 5) (m : Nat) :
    ((downFrom m).flatMap (bitEvents w n)).length = 3 * m + min n.toNat m := by
  induction m with
  | zero => simp [downFrom]
  | succ m ih =>
    rw [downFrom_succ, List.flatMap_cons, List.length_append, ih, bitEvents_length]
    split <;> omega

theorem shiftEvents_length (w : Word) (n : BitVec 5) : (shiftEvents w n).length = 49 + min n.toNat 16 := by
  rw [shiftEvents, List.length_append, flatMap_bitEvents_length, wordWidth, List.length_singleton]
  omega

theorem unlockEvents_length : unlockEvents.length = 32 := rfl

theorem fcloadEvents_length (fc : FcWord) : (fcloadEvents fc).length = 152 := by
  simp only [fcloadEvents, List.length_append, shiftEvents_length]
  rfl

theorem positionEvents_length (litpos : BitVec 4) (ch : BitVec 2) (p : Nat) :
    (positionEvents litpos ch p).length = 148 + if p = 0 then 2 else 0 := by
  simp only [positionEvents, channelOrder, gsEvents, List.flatMap_cons, List.flatMap_nil, List.length_append,
    List.length_nil, shiftEvents_length]
  by_cases hp : p = 0 <;> simp [gsLatch, hp, gsMidLatch, gsEndLatch]

theorem flatMap_positionEvents_length (litpos : BitVec 4) (ch : BitVec 2) (m : Nat) :
    ((downFrom m).flatMap (positionEvents litpos ch)).length = 148 * m + min (2 * m) 2 := by
  induction m with
  | zero => rfl
  | succ m ih =>
    rw [downFrom_succ, List.flatMap_cons, List.length_append, ih, positionEvents_length]
    split <;> omega

theorem renderEvents_length (f : Word) (ch : BitVec 2) (dir : Bool) : (renderEvents f ch dir).length = 2372 := by
  simp only [renderEvents, List.length_append, List.length_cons, List.length_nil,
    flatMap_positionEvents_length, ledCount]
  rfl

/-- No command queues more events than a frame has (R30). -/
theorem commandEvents_length_le (fc : FcWord) (i : Instr) : (commandEvents fc i).length ≤ 2372 := by
  cases i with
  | shift word n => rw [commandEvents, shiftEvents_length]; omega
  | unlock => rw [commandEvents, unlockEvents_length]; omega
  | fcload => rw [commandEvents, fcloadEvents_length]; omega
  | render f ch dir => rw [commandEvents, renderEvents_length]
  | _ => simp [commandEvents]

/-! ## The fields of the FC word -/

theorem fieldMask_getLsbD (fld : Field) {k : Nat} (hk : k < 48) :
    (fieldMask fld).getLsbD k = decide (fld.lo ≤ k ∧ k < fld.lo + fld.width) := by
  revert k
  cases fld <;> decide

/-- Inserting a pattern writes the field's bits and no other (R101). -/
theorem insertField_getLsbD (fld : Field) (pat : BitVec fld.width) (fc : FcWord) {k : Nat} (hk : k < 48) :
    (insertField fld pat fc).getLsbD k
      = if fld.lo ≤ k ∧ k < fld.lo + fld.width then pat.getLsbD (k - fld.lo) else fc.getLsbD k := by
  have hpat : k - fld.lo ≥ fld.width → pat.getLsbD (k - fld.lo) = false := BitVec.getLsbD_of_ge _ _
  simp only [insertField, BitVec.getLsbD_or, BitVec.getLsbD_and, BitVec.getLsbD_not, fieldMask_getLsbD fld hk,
    BitVec.getLsbD_shiftLeft, BitVec.getLsbD_setWidth]
  grind

theorem Field.lo_add_width_le (fld : Field) : fld.lo + fld.width ≤ 48 := by
  cases fld <;> decide

/-- A field reads back the pattern inserted into it. -/
theorem readField_insertField_same (fld : Field) (pat : BitVec fld.width) (fc : FcWord) :
    readField fld (insertField fld pat fc) = pat := by
  refine BitVec.eq_of_getLsbD_eq fun k hk => ?_
  have := fld.lo_add_width_le
  rw [readField, BitVec.getLsbD_extractLsb', insertField_getLsbD _ _ _ (by omega)]
  simp [hk]

theorem Field.disjoint {f g : Field} (h : f ≠ g) : f.lo + f.width ≤ g.lo ∨ g.lo + g.width ≤ f.lo := by
  revert h
  cases f <;> cases g <;> decide

/-- Inserting into one field leaves every other field as it is. -/
theorem readField_insertField_other {f g : Field} (h : f ≠ g) (pat : BitVec f.width) (fc : FcWord) :
    readField g (insertField f pat fc) = readField g fc := by
  refine BitVec.eq_of_getLsbD_eq fun k hk => ?_
  have hg := g.lo_add_width_le
  have hd := Field.disjoint h
  simp only [readField, BitVec.getLsbD_extractLsb', insertField_getLsbD f pat fc (k := g.lo + k) (by omega)]
  rw [if_neg (by omega)]

theorem enum4Pattern_mem {w : Nat} (p0 p1 p2 p3 : BitVec w) (value : Word) :
    enum4Pattern p0 p1 p2 p3 p0 value ∈ [p0, p1, p2, p3] := by
  unfold enum4Pattern
  split <;> simp

/-- A field that holds one of a list of patterns still does after an insertion, if what is inserted into the field
itself is one of them. -/
theorem readField_insertField_mem {f : Field} {pats : List (BitVec f.width)} {fc : FcWord} (h : readField f fc ∈ pats)
    (hp : ∀ value, pattern f value ∈ pats) (g : Field) (value : Word) :
    readField f (insertField g (pattern g value) fc) ∈ pats := by
  by_cases hg : g = f
  · subst hg
    rw [readField_insertField_same]
    exact hp value
  · rwa [readField_insertField_other hg]

/-! ## Register accesses -/

/-- The step in which the host performs the access at the head of its actions. -/
theorem step_access {s : State} {ts : List Turn} {a : Access} {hs : List HostAction}
    (ht : s.turns = .agent .host :: ts) (hh : s.host = .access a :: hs) :
    step s = hostAccess a { s with turns := ts, host := hs } := by
  rw [step_of_turn ht]
  simp only [takeTurn, hostTurn, hh]

theorem step_read {s : State} {ts : List Turn} {off : Offset} {hs : List HostAction} (hr : s.rst = false)
    (ht : s.turns = .agent .host :: ts) (hh : s.host = .access { off := off, width := .word, kind := .read } :: hs)
    (ha : off.toNat % 4 = 0) :
    step s = .next { s with turns := ts, host := hs, resp := some (.value (s.readReg (off.toNat / 4))) } := by
  rw [step_access ht hh]
  simp only [hostAccess, hr, Access.isAlignedWord_word ha, Access.regNumber_eq, Bool.not_true, Bool.false_eq_true, if_false]
  rfl

theorem step_write {s : State} {ts : List Turn} {off : Offset} {v : Word32} {hs : List HostAction}
    (hr : s.rst = false) (ht : s.turns = .agent .host :: ts)
    (hh : s.host = .access { off := off, width := .word, kind := .write v } :: hs) (ha : off.toNat % 4 = 0) :
    step s = writeReg (off.toNat / 4) v { s with turns := ts, host := hs, resp := some .written } := by
  rw [step_access ht hh]
  simp only [hostAccess, hr, Access.isAlignedWord_word ha, Access.regNumber_eq, Bool.not_true, Bool.false_eq_true, if_false]
  rfl

theorem writeReg_ignored {reg : Nat} (h : 2 ≤ reg) (v : Word32) (s : State) : writeReg reg v s = .next s := by
  obtain ⟨n, rfl⟩ := Nat.exists_eq_add_of_le' h
  rfl

theorem State.clearErrors_eq (v : Word32) (s : State) :
    s.clearErrors v = { s with
      errIll := if v.getLsbD 1 then false else s.errIll
      errBusy := if v.getLsbD 2 then false else s.errBusy } := by
  unfold State.clearErrors
  cases v.getLsbD 1 <;> cases v.getLsbD 2 <;> simp

theorem registerBit_status (s : State) (k : Nat) :
    registerBit s 0x04 k
      = if k = 0 then s.busy else if k = 1 then s.errIll else if k = 2 then s.errBusy else false := by
  match k with
  | 0 => rw [Bool.eq_iff_iff]; simp [registerBit, busy_eq_true_iff]
  | 1 | 2 | k + 3 => rfl

theorem registerBit_result (s : State) (k : Nat) :
    registerBit s 0x14 k
      = if k = 0 then s.resInrange
        else if 4 ≤ k ∧ k < 8 then s.resKidx.getLsbD (k - 4)
        else if 8 ≤ k ∧ k < 12 then s.resLitpos.getLsbD (k - 8) else false := by
  match k with
  | 0 | k + 1 => rfl

theorem registerBit_pins (s : State) (k : Nat) :
    registerBit s 0x18 k
      = if k = 0 then s.pins.data else if k = 1 then s.pins.clock else if k = 2 then s.pins.latch
        else if k = 3 then s.pins.halo else false := by
  match k with
  | 0 | 1 | 2 | 3 | k + 4 => rfl

/-- The registers hold their layouts, bit by bit (R32 to R37). -/
theorem readReg_getLsbD (s : State) {reg k : Nat} (hreg : reg < 8) (hk : k < 32) :
    (s.readReg reg).getLsbD k = registerBit s (4 * reg) k := by
  interval_cases reg
  · simp [State.readReg, registerBit]
  · exact (statusReg_getLsbD s k).trans (registerBit_status s k).symm
  · simp [State.readReg, registerBit, fcLow, hk]
  · simp [State.readReg, registerBit, fcMid, hk]
  · simp [State.readReg, registerBit, fcHigh, hk]
  · refine (resultReg_getLsbD s k).trans ((registerBit_result s k).trans ?_).symm
    grind
  · exact (pinsReg_getLsbD s k).trans (registerBit_pins s k).symm
  · simp [State.readReg, registerBit]

/-! ## What leaves the FC word and the pins alone -/

/-- Only a setter that is accepted writes the FC word. -/
theorem exec_fc_change {i : Instr} {s b : State} (hx : exec i s = .next b) (h : b.fc ≠ s.fc) :
    s.queue = [] ∧ isSetter i = true := by
  by_cases hq : s.queue = []
  · rcases exec_idle_cases hq hx with ⟨hs, -⟩ | ⟨-, -, rfl⟩ | ⟨f, ch, dir, rfl, -, rfl⟩ | ⟨-, rfl⟩
    · exact ⟨hq, hs⟩
    · exact absurd rfl h
    · exact absurd rfl h
    · exact absurd rfl h
  · rw [exec_busy hq hx] at h
    exact absurd rfl h

theorem exec_pins {i : Instr} {s b : State} (hx : exec i s = .next b) : b.pins = s.pins := by
  rcases exec_cases hx with ⟨-, rfl⟩ | ⟨-, rfl | ⟨_, rfl⟩ | ⟨_, rfl⟩ | ⟨_, _, _, _, rfl⟩ | rfl⟩ <;> rfl

theorem present_flagIll_fc (s : State) : (s.present State.flagIll).fc = s.fc := by
  unfold State.present
  split <;> rfl

theorem present_flagIll_pins (s : State) : (s.present State.flagIll).pins = s.pins := by
  unfold State.present
  split <;> rfl

/-! ## The invariant -/

theorem restOfOneCommand_nil : RestOfOneCommand [] := ⟨.nop, 0, rfl, List.suffix_rfl⟩

theorem pattern_lgse1_mem (value : Word) : pattern .lgse1 value ∈ [0b000#3, 0b001#3, 0b100#3, 0b111#3] :=
  enum4Pattern_mem 0b000#3 0b001#3 0b100#3 0b111#3 value

theorem pattern_lgse2_mem (value : Word) : pattern .lgse2 value ∈ [0b000#3, 0b001#3, 0b101#3, 0b111#3] :=
  enum4Pattern_mem 0b000#3 0b001#3 0b101#3 0b111#3 value

theorem frameLitpos_eq (f : Word) (dir : Bool) :
    frameLitpos f dir = frameKidx f ∨ frameLitpos f dir = 15#4 - frameKidx f := by
  cases dir
  · exact .inl rfl
  · exact .inr rfl

theorem State.BlockAtReset.withDriver {s : State} (h : s.BlockAtReset) (d : State) :
    (s.withDriver d).BlockAtReset where
  fc_zero := h.fc_zero
  pins_low := h.pins_low
  queue_empty := h.queue_empty
  no_err_ill := h.no_err_ill
  no_err_busy := h.no_err_busy
  no_inrange := h.no_inrange
  kidx_zero := h.kidx_zero
  litpos_zero := h.litpos_zero

theorem State.BlockAtReset.assertRst (s : State) : (s.setRst true).BlockAtReset where
  fc_zero := rfl
  pins_low := rfl
  queue_empty := rfl
  no_err_ill := rfl
  no_err_busy := rfl
  no_inrange := rfl
  kidx_zero := rfl
  litpos_zero := rfl

/-- A block at its reset values meets the invariant if the observer saw the lines go low. -/
theorem State.BlockAtReset.inv {s : State} (h : s.BlockAtReset) (hw : lastVector s.wave = Pins.low) : s.Inv where
  reset_held _ := h
  one_command := by rw [h.queue_empty]; exact restOfOneCommand_nil
  lines_settle := by rw [h.queue_empty, h.pins_low]; exact ⟨rfl, rfl⟩
  lgse1_storable := by rw [h.fc_zero]; decide
  lgse2_storable := by rw [h.fc_zero]; decide
  result_consistent := .inl (by rw [h.kidx_zero, h.litpos_zero])
  wave_current := h.pins_low.trans hw.symm

/-- The invariant does not look at the driver. -/
theorem State.Inv.withDriver {s : State} (h : s.Inv) (d : State) : (s.withDriver d).Inv :=
  { h with reset_held := fun hr => (h.reset_held hr).withDriver d }

theorem State.Inv.assertRst {s : State} (h : s.Inv) : (s.setRst true).Inv := by
  refine (BlockAtReset.assertRst s).inv ?_
  rw [assertRst_wave]
  cases hr : s.rst with
  | true => exact h.wave_current.symm.trans (h.reset_held hr).pins_low
  | false => rfl

theorem State.Inv.releaseRst {s : State} (h : s.Inv) : (s.setRst false).Inv :=
  { h with reset_held := nofun }

/-- While RST is not asserted, nothing has to be held. -/
theorem State.resetHeld_of_released {s : State} (hr : s.rst = false) : s.rst = true → s.BlockAtReset :=
  fun h => absurd (hr.symm.trans h) Bool.false_ne_true

/-- Outside reset the error bits are free. -/
theorem State.Inv.withErrors {s : State} (h : s.Inv) (hr : s.rst = false) (ill busy : Bool) :
    State.Inv { s with errIll := ill, errBusy := busy } :=
  { h with reset_held := resetHeld_of_released hr }

theorem State.Inv.perform {s : State} {e : Event} {rest : List Event} (h : s.Inv) (hr : s.rst = false)
    (hq : s.queue = e :: rest) :
    State.Inv { s with
      pins := performEvent s.pins e, queue := rest, wave := .event (performEvent s.pins e) :: s.wave } where
  reset_held := resetHeld_of_released hr
  one_command := by
    obtain ⟨i, fc, hi, hsuf⟩ := h.one_command
    rw [hq] at hsuf
    exact ⟨i, fc, hi, (List.suffix_cons e rest).trans hsuf⟩
  lines_settle := by
    have hl := h.lines_settle
    rwa [hq] at hl
  lgse1_storable := h.lgse1_storable
  lgse2_storable := h.lgse2_storable
  result_consistent := h.result_consistent
  wave_current := rfl

/-- With nothing pending, the lines are settled (R26). -/
theorem State.Inv.pins_settled {s : State} (h : s.Inv) (hq : s.queue = []) : s.pins.Settled := by
  have hl := h.lines_settle
  rwa [hq] at hl

theorem State.Inv.writeFc {s : State} (h : s.Inv) (hr : s.rst = false) (fld : Field) (value : Word) :
    (s.writeFc (insertField fld (pattern fld value) s.fc)).Inv :=
  { h with
    reset_held := resetHeld_of_released hr
    lgse1_storable := readField_insertField_mem (f := .lgse1) h.lgse1_storable pattern_lgse1_mem fld value
    lgse2_storable := readField_insertField_mem (f := .lgse2) h.lgse2_storable pattern_lgse2_mem fld value }

theorem State.Inv.writeResult {s : State} (h : s.Inv) (hr : s.rst = false) (f : Word) (dir : Bool) :
    (s.writeResult (frameInrange f) (frameKidx f) (frameLitpos f dir)).Inv :=
  { h with
    reset_held := resetHeld_of_released hr
    result_consistent := frameLitpos_eq f dir }

/-- An idle block may queue the events of any well-formed command. -/
theorem State.Inv.enqueue {s : State} (h : s.Inv) (hr : s.rst = false) (hq : s.queue = []) {i : Instr} (fc : FcWord)
    (hi : i.wf = true) : (s.enqueue (commandEvents fc i)).Inv :=
  { h with
    reset_held := resetHeld_of_released hr
    one_command := ⟨i, fc, hi, List.suffix_rfl⟩
    lines_settle := performEvents_commandEvents_settled fc i (h.pins_settled hq) }

theorem wf_of_not_isRender {i : Instr} (h : isRender i = false) : i.wf = true := by
  cases i with
  | render f ch dir => simp [isRender] at h
  | _ => rfl

theorem State.Inv.of_exec {i : Instr} {s b : State} (h : s.Inv) (hr : s.rst = false) (hx : exec i s = .next b) :
    b.Inv := by
  by_cases hq : s.queue = []
  · rcases exec_idle_cases hq hx with ⟨-, fld, value, rfl⟩ | ⟨-, hi, rfl⟩ | ⟨f, ch, dir, rfl, hc, rfl⟩ | ⟨-, rfl⟩
    · exact h.writeFc hr fld value
    · exact h.enqueue hr hq s.fc (wf_of_not_isRender hi)
    · exact (h.writeResult hr f dir).enqueue (i := .render f ch dir) hr hq s.fc (by simpa [Instr.wf] using hc)
    · exact h.withErrors hr true s.errBusy
  · rw [exec_busy hq hx]
    exact h.withErrors hr s.errIll true

theorem State.Inv.presentFlagIll {s : State} (h : s.Inv) (hr : s.rst = false) : (s.present State.flagIll).Inv := by
  by_cases hq : s.queue = []
  · rw [present_idle hq]
    exact h.withErrors hr true s.errBusy
  · rw [present_busy hq]
    exact h.withErrors hr s.errIll true

theorem State.Inv.of_blockStep {u : Turn} {s b : State} (h : s.Inv) (hb : BlockStep s u b) : b.Inv := by
  cases hb with
  | assertRst => exact h.assertRst
  | releaseRst => exact h.releaseRst
  | unchanged => exact h
  | perform hr hq => exact h.perform hr hq
  | clearErrors hr => exact h.withErrors hr _ _
  | illegal hr => exact h.presentFlagIll hr
  | command hr _ _ hx => exact h.of_exec hr hx

/-! ## The statements -/

/-- Settles O50: every change that a step can make to the block keeps the invariant, and the rest of the step only
touches the driver. -/
theorem everyStepKeepsTheInvariant : Obligations.EveryStepKeepsTheInvariant := by
  intro s t h hst
  obtain ⟨b, d, hb, rfl⟩ := step_blockStep hst
  exact (h.of_blockStep hb).withDriver d

/-- Settles O49: the block of `State.reset` is at its reset values and nothing was observed yet. -/
theorem resetMeetsTheInvariant : Obligations.ResetMeetsTheInvariant :=
  State.BlockAtReset.inv ⟨rfl, rfl, rfl, rfl, rfl, rfl, rfl, rfl⟩ rfl

/-- Settles O51: the queue is the end of one command's list, and no list is longer than a frame's. -/
theorem invariantBoundsTheQueueAndTheLines : Obligations.InvariantBoundsTheQueueAndTheLines := by
  intro s h
  obtain ⟨i, fc, -, hsuf⟩ := h.one_command
  exact ⟨hsuf.length_le.trans (commandEvents_length_le fc i), h.pins_settled⟩

/-- Settles O16: the values of `State.reset` are those of R38's table. -/
theorem resetHoldsTheTableValues : Obligations.ResetHoldsTheTableValues :=
  ⟨rfl, rfl, rfl, rfl, rfl, rfl, rfl, rfl, rfl⟩

/-- Settles O40, by the kind of the command when it is accepted. -/
theorem commandsChangeOnlyTheirOwnState : Obligations.CommandsChangeOnlyTheirOwnState := by
  intro i s t hwf hx
  by_cases hq : s.queue = []
  · rcases exec_idle_cases hq hx with ⟨hs, fld, value, rfl⟩ | ⟨hs, hr, rfl⟩ | ⟨f, ch, dir, rfl, hc, rfl⟩ | ⟨hi, -⟩
    · simp [hq, hs, commandEvents_of_isSetter hs]
    · simp [hq]
    · simp [hq, isRender, commandEvents]
    · simp [hwf] at hi
  · rw [exec_busy hq hx]
    simp [hq]

/-- Settles O43: of all that a step can do to the block, only an RST assertion and an accepted setter write `fc`. -/
theorem onlySettersAndResetChangeFc : Obligations.OnlySettersAndResetChangeFc := by
  intro s t hst hfc
  obtain ⟨b, d, hb, rfl⟩ := step_blockStep hst
  generalize (nextTurn s).1 = u at hb ⊢
  cases hb with
  | assertRst => exact .inl rfl
  | command hr hh hd hx =>
    obtain ⟨hq, hi⟩ := exec_fc_change hx hfc
    exact .inr ⟨rfl, hr, hq, _, _, _, hh, hd, hi⟩
  | illegal => exact absurd (present_flagIll_fc s) hfc
  | releaseRst | unchanged | perform | clearErrors => exact absurd rfl hfc

/-- Settles O45: of all that a step can do to the block, only an RST assertion and the engine's step write the pins. -/
theorem onlyEventsAndResetChangeThePins : Obligations.OnlyEventsAndResetChangeThePins := by
  intro s t hst hp
  obtain ⟨b, d, hb, rfl⟩ := step_blockStep hst
  generalize (nextTurn s).1 = u at hb ⊢
  cases hb with
  | assertRst => exact .inl rfl
  | perform hr hq => exact .inr ⟨rfl, _, _, hq, rfl, rfl⟩
  | command _ _ _ hx => exact absurd (exec_pins hx) hp
  | illegal => exact absurd (present_flagIll_pins s) hp
  | releaseRst | unchanged | clearErrors => exact absurd rfl hp

/-- Settles O13: STATUS is register 1, and every register from 2 up ignores a write. -/
theorem registerWritesClearOrAreIgnored : Obligations.RegisterWritesClearOrAreIgnored := by
  intro s ts hs off v hr ht hh
  refine ⟨?_, fun ha hoff => ?_⟩
  · rintro rfl
    rw [step_write hr ht hh (by decide)]
    exact congrArg Host.Outcome.next (State.clearErrors_eq v _)
  · rw [step_write hr ht hh ha, writeReg_ignored (by omega)]

/-- Settles O12: the answer is the register's value, whose bits are its layout's. -/
theorem wordReadsDeliverTheRegister : Obligations.WordReadsDeliverTheRegister := by
  intro s ts hs off hr ht hh ha
  have hlt := off.isLt
  refine ⟨s.readReg (off.toNat / 4), step_read hr ht hh ha, fun k hk => ?_⟩
  rw [readReg_getLsbD s (by omega) hk, Nat.mul_div_cancel' (Nat.dvd_of_mod_eq_zero ha)]

end Sys2Proof.Machine
end

section
/-! PROOFS. The family spec/20_memory.md: the window and its bus errors, the serial order of the FC word, and the
engine's share of a run. -/

namespace Sys2Proof.Machine

/-! ## Every step answers a next state -/

theorem exec_answers_next (i : Instr) (s : State) : ∃ t, exec i s = .next t :=
  (exec_withDriver i s s).imp fun _ h => h.1

theorem writeCmd_answers_next (v : Word32) (s : State) : ∃ t, writeCmd v s = .next t := by
  unfold writeCmd
  cases decode v with
  | ok i => exact exec_answers_next i s
  | error e => exact ⟨_, rfl⟩

theorem writeReg_answers_next (reg : Nat) (v : Word32) (s : State) : ∃ t, writeReg reg v s = .next t := by
  match reg with
  | 0 => exact writeCmd_answers_next v s
  | 1 => exact ⟨_, rfl⟩
  | n + 2 => exact ⟨_, writeReg_ignored (by omega) v s⟩

theorem hostAccess_answers_next (a : Access) (s : State) : ∃ t, hostAccess a s = .next t := by
  unfold hostAccess
  split
  · exact ⟨_, rfl⟩
  · split
    · exact ⟨_, rfl⟩
    · cases a.kind with
      | read => exact ⟨_, rfl⟩
      | write v => exact writeReg_answers_next _ v _

theorem hostTurn_answers_next (s : State) : ∃ t, hostTurn s = .next t := by
  unfold hostTurn
  split
  · exact ⟨_, rfl⟩
  · exact hostAccess_answers_next _ _
  · exact ⟨_, rfl⟩

theorem step_answers_next (s : State) : ∃ t, step s = .next t := by
  unfold step
  match (nextTurn s).1 with
  | .rst level => exact ⟨_, rfl⟩
  | .agent .engine => exact ⟨_, rfl⟩
  | .agent .host => exact hostTurn_answers_next _

/-! ## A step of an agent while events are pending -/

/-- The engine's turn performs the head of the queue; what else it changes is the driver's. -/
theorem step_engine_busy {s t : State} {e : Event} {rest : List Event} (hr : s.rst = false) (hq : s.queue = e :: rest)
    (hu : (nextTurn s).1 = .agent .engine) (h : step s = .next t) :
    ∃ d, t = State.withDriver { s with
      pins := performEvent s.pins e, queue := rest, wave := .event (performEvent s.pins e) :: s.wave } d := by
  unfold step at h
  rw [hu, nextTurn_withDriver s] at h
  refine ⟨(nextTurn s).2, ?_⟩
  rw [← Host.Outcome.next.inj h]
  simp only [engineStep, State.withDriver_rst, hr, State.withDriver_queue, hq, Bool.false_eq_true, if_false]
  rfl

/-- While events are pending, no turn of the host touches them, the lines, the waveform or RST: a command is dropped. -/
theorem step_host_busy {s t : State} (hq : s.queue ≠ []) (hu : (nextTurn s).1 = .agent .host) (h : step s = .next t) :
    t.queue = s.queue ∧ t.pins = s.pins ∧ t.wave = s.wave ∧ t.rst = s.rst := by
  obtain ⟨b, d, hb, rfl⟩ := step_blockStep h
  rw [hu] at hb
  cases hb with
  | unchanged | clearErrors => exact ⟨rfl, rfl, rfl, rfl⟩
  | illegal => rw [present_busy hq]; exact ⟨rfl, rfl, rfl, rfl⟩
  | command _ _ _ hx => rw [exec_busy hq hx]; exact ⟨rfl, rfl, rfl, rfl⟩

/-- The lines and the waveform that performing every pending event makes. -/
def State.outcome (s : State) : Pins × List WaveStep :=
  (performEvents s.pins s.queue, ((waveform s.pins s.queue).map WaveStep.event).reverse ++ s.wave)

theorem State.outcome_of_idle {s : State} (h : s.queue = []) : s.outcome = (s.pins, s.wave) := by
  rw [State.outcome, h]
  rfl

/-- While events are pending, a turn of either agent keeps their outcome: it is the engine's, and one event fewer is
pending, or the host's, and as many are. -/
theorem step_agent_busy {s t : State} {a : Agent} (hr : s.rst = false) (hq : s.queue ≠ [])
    (hu : (nextTurn s).1 = .agent a) (h : step s = .next t) :
    t.rst = false ∧ t.outcome = s.outcome
      ∧ ((a = .engine ∧ t.queue.length + 1 = s.queue.length) ∨ (a = .host ∧ t.queue.length = s.queue.length)) := by
  cases a with
  | engine =>
    obtain ⟨e, rest, hc⟩ := List.exists_cons_of_ne_nil hq
    obtain ⟨d, rfl⟩ := step_engine_busy hr hc hu h
    exact ⟨hr, by simp [State.outcome, hc, waveform, performEvents_cons], .inl ⟨rfl, by simp [hc]⟩⟩
  | host =>
    obtain ⟨hqt, hpt, hwt, hrt⟩ := step_host_busy hq hu h
    exact ⟨hrt.trans hr, by simp [State.outcome, hqt, hpt, hwt], .inr ⟨rfl, by rw [hqt]⟩⟩

/-! ## Schedules that leave RST alone -/

theorem noReset_cons {u : Turn} {us : List Turn} :
    noReset (u :: us) = true ↔ (∃ a, u = .agent a) ∧ noReset us = true := by
  cases u <;> simp [noReset]

theorem engineTurns_cons_engine (us : List Turn) : engineTurns (.agent .engine :: us) = engineTurns us + 1 := by
  simp [engineTurns]

theorem engineTurns_cons_host (us : List Turn) : engineTurns (.agent .host :: us) = engineTurns us := by
  simp [engineTurns]

/-- Under a schedule that leaves RST alone, the next turn is an agent's, and what is left of the schedule is such a one
too. -/
theorem step_noReset {s t : State} (hn : noReset s.turns = true) (h : step s = .next t) :
    (∃ a, (nextTurn s).1 = .agent a) ∧ noReset t.turns = true := by
  rcases step_schedule h with ⟨u, hs, hu⟩ | ⟨-, ht, -, hu, -⟩ | ⟨-, ht, -, hu⟩
  · rw [hs, noReset_cons] at hn
    exact hu ▸ hn
  · exact ⟨⟨_, hu⟩, by rw [ht]; rfl⟩
  · exact ⟨⟨_, hu⟩, by rw [ht]; rfl⟩

/-- A schedule that serves the engine at least as often as there are events pending empties the queue within its
length. -/
theorem exists_run_queue_empty {ts rest : List Turn} {s : State} (hr : s.rst = false) (ht : s.turns = ts ++ rest)
    (hn : noReset ts = true) (hl : s.queue.length ≤ engineTurns ts) :
    ∃ k t, k ≤ ts.length ∧ Host.Core.run Sys2Proof.core k s = .next t ∧ t.queue = [] := by
  induction ts generalizing s with
  | nil => exact ⟨0, s, Nat.le_refl 0, rfl, List.eq_nil_of_length_eq_zero (Nat.le_zero.1 hl)⟩
  | cons u us ih =>
    by_cases hq : s.queue = []
    · exact ⟨0, s, Nat.zero_le _, rfl, hq⟩
    obtain ⟨⟨a, rfl⟩, hnu⟩ := noReset_cons.1 hn
    have hnt : nextTurn s = (.agent a, { s with turns := us ++ rest }) := nextTurn_scheduled ht
    obtain ⟨t, hst⟩ := step_answers_next s
    have htt : t.turns = us ++ rest := by rw [(takeTurn_schedule hst).1, hnt]
    obtain ⟨hrt, -, hlen⟩ := step_agent_busy hr hq (congrArg Prod.fst hnt) hst
    have hlt : t.queue.length ≤ engineTurns us := by
      rcases hlen with ⟨rfl, hlen⟩ | ⟨rfl, hlen⟩
      · rw [engineTurns_cons_engine] at hl; omega
      · rw [engineTurns_cons_host] at hl; omega
    obtain ⟨k, t', hk, hrun, hqt'⟩ := ih hrt htt hnu hlt
    exact ⟨k + 1, t', Nat.succ_le_succ hk, (run_succ k hst).trans hrun, hqt'⟩

/-! ## The engine is served again and again -/

/-- No more turns than these come before a turn of the engine: the schedule, then the rest of the running gap. -/
def State.engineWait (s : State) : Nat := s.turns.length + (Config.freeGap s.gapIndex - s.gapTurns)

/-- Every turn that is not the engine's brings the engine's nearer. -/
theorem engineWait_lt_of_step {s t : State} (hu : (nextTurn s).1 ≠ .agent .engine) (h : step s = .next t) :
    t.engineWait < s.engineWait := by
  obtain ⟨hts, hgi, hgt⟩ := takeTurn_schedule h
  unfold State.engineWait
  rw [hts, hgi, hgt]
  cases hs : s.turns with
  | cons u us => simp [nextTurn_scheduled hs]
  | nil =>
    rw [nextTurn_free hs] at hu ⊢
    rcases freeTurn_cases s with ⟨hg, hf⟩ | ⟨-, hf⟩
    · simp only [hf, hs, List.length_nil]; omega
    · exact absurd (congrArg Prod.fst hf) hu

/-- On a run without end, a turn of the engine comes at or after every step. -/
theorem IsRun.exists_engine_turn {r : Nat → State} (hr : IsRun r) (n : Nat) :
    ∃ m, n ≤ m ∧ (nextTurn (r m)).1 = .agent .engine := by
  by_cases hu : (nextTurn (r n)).1 = .agent .engine
  · exact ⟨n, Nat.le_refl n, hu⟩
  · have hlt := engineWait_lt_of_step hu (hr n)
    obtain ⟨m, hm, he⟩ := hr.exists_engine_turn (n + 1)
    exact ⟨m, by omega, he⟩
termination_by (r n).engineWait

/-- Outside reset, under a schedule that leaves RST alone, the run reaches an empty queue with the outcome of the
pending events: each step performs one of them or brings the engine's turn nearer. -/
theorem exists_run_outcome (s : State) (hr : s.rst = false) (hn : noReset s.turns = true) :
    ∃ k t, Host.Core.run Sys2Proof.core k s = .next t ∧ t.queue = [] ∧ t.outcome = s.outcome := by
  by_cases hq : s.queue = []
  · exact ⟨0, s, rfl, hq, rfl⟩
  obtain ⟨t, hst⟩ := step_answers_next s
  obtain ⟨⟨a, hu⟩, hnt⟩ := step_noReset hn hst
  obtain ⟨hrt, hot, hlen⟩ := step_agent_busy hr hq hu hst
  have hlt : t.queue.length < s.queue.length
      ∨ t.queue.length = s.queue.length ∧ t.engineWait < s.engineWait := by
    rcases hlen with ⟨rfl, hlen⟩ | ⟨rfl, hlen⟩
    · exact .inl (by omega)
    · exact .inr ⟨hlen, engineWait_lt_of_step (by simp [hu]) hst⟩
  obtain ⟨k, t', hrun, hqt', hot'⟩ := exists_run_outcome t hrt hnt
  exact ⟨k + 1, t', (run_succ k hst).trans hrun, hqt', hot'.trans hot⟩
termination_by (s.queue.length, s.engineWait)
decreasing_by exact Prod.lex_def.2 hlt

/-! ## The rising edges of a shift -/

/-- What the rising edge of bit `i` samples: the bit, under latch exactly in the trailing window (R134). -/
def bitEdge (w : Word) (n : BitVec 5) (halo : Bool) (i : Nat) : Pins :=
  { data := w.getLsbD i, clock := true, latch := decide (i < n.toNat), halo := halo }

/-- Bit `i` leaves the levels of its edge with CLOCK low, if LATCH is not up too early. -/
theorem performEvents_bitEvents {w : Word} {n : BitVec 5} {p : Pins} {i : Nat} (hl : p.latch = true → i < n.toNat) :
    performEvents p (bitEvents w n i) = { bitEdge w n p.halo i with clock := false } := by
  rw [bitEvents_eq]
  by_cases hi : i < n.toNat
  · simp [hi, performEvents, performEvent, bitEdge]
  · have : p.latch = false := Bool.eq_false_iff.2 fun h => hi (hl h)
    simp [hi, performEvents, performEvent, bitEdge, this]

/-- Bit `i` makes one rising edge, from CLOCK low. -/
theorem risingEdges_bitEvents {w : Word} {n : BitVec 5} {p : Pins} {i : Nat} (hc : p.clock = false)
    (hl : p.latch = true → i < n.toNat) : risingEdges p (bitEvents w n i) = [bitEdge w n p.halo i] := by
  rw [bitEvents_eq]
  by_cases hi : i < n.toNat
  · simp [hi, risingEdges, performEvent, bitEdge, hc]
  · have : p.latch = false := Bool.eq_false_iff.2 fun h => hi (hl h)
    simp [hi, risingEdges, performEvent, bitEdge, hc, this]

/-- The bits from `m` down to 0 leave the levels of the last edge, with CLOCK low. -/
theorem performEvents_flatMap_bitEvents {w : Word} {n : BitVec 5} {p : Pins} {m : Nat}
    (hl : p.latch = true → m < n.toNat) :
    performEvents p ((downFrom (m + 1)).flatMap (bitEvents w n)) = { bitEdge w n p.halo 0 with clock := false } := by
  rw [downFrom_succ, List.flatMap_cons, performEvents_append, performEvents_bitEvents hl]
  induction m generalizing p with
  | zero => rfl
  | succ m ih =>
    have hl' : decide (m + 1 < n.toNat) = true → m < n.toNat := fun h => Nat.lt_of_succ_lt (of_decide_eq_true h)
    rw [downFrom_succ, List.flatMap_cons, performEvents_append, performEvents_bitEvents hl']
    exact ih hl'

/-- The bits below `m` make one rising edge each, in the order in which they leave. -/
theorem risingEdges_flatMap_bitEvents {w : Word} {n : BitVec 5} {p : Pins} {m : Nat} (hc : p.clock = false)
    (hl : p.latch = true → m ≤ n.toNat) :
    risingEdges p ((downFrom m).flatMap (bitEvents w n)) = (downFrom m).map (bitEdge w n p.halo) := by
  induction m generalizing p with
  | zero => rfl
  | succ m ih =>
    rw [downFrom_succ, List.flatMap_cons, risingEdges_append, risingEdges_bitEvents hc hl, performEvents_bitEvents hl,
      ih rfl fun h => Nat.le_of_lt (of_decide_eq_true h)]
    rfl

/-- From settled lines, a shift leaves DATA at bit 0 of its word and the lines settled (R134). -/
theorem performEvents_shiftEvents (w : Word) (n : BitVec 5) {p : Pins} (hp : p.Settled) :
    performEvents p (shiftEvents w n) = { data := w.getLsbD 0, clock := false, latch := false, halo := p.halo } := by
  rw [shiftEvents, performEvents_concat, wordWidth, performEvents_flatMap_bitEvents (by simp [hp.2])]
  rfl

/-- From settled lines, a shift makes 16 rising edges, one a bit from bit 15 down to bit 0 (R134). -/
theorem risingEdges_shiftEvents (w : Word) (n : BitVec 5) {p : Pins} (hp : p.Settled) :
    risingEdges p (shiftEvents w n) = (List.range 16).map fun j => bitEdge w n p.halo (15 - j) := by
  have hlast : ∀ q : Pins, risingEdges q [.setLatch false] = [] := fun q => by simp [risingEdges, performEvent]
  rw [shiftEvents, risingEdges_append, hlast, List.append_nil,
    risingEdges_flatMap_bitEvents hp.1 (by simp [hp.2])]
  rfl

/-! ## The edges of the FC word -/

/-- What the rising edge number `j` of an FC load samples, counted from 0: bit `47 - j`, under latch in the last five
(R152). -/
def fcEdge (fc : FcWord) (halo : Bool) (j : Nat) : Pins :=
  { data := fc.getLsbD (47 - j), clock := true, latch := decide (43 ≤ j), halo := halo }

/-- The edge of bit `15 - j` of the 16 bits from `lo` up is the edge number `m` of the FC word, if it samples the same bit
and both are under latch or neither is. -/
theorem bitEdge_extractLsb' (fc : FcWord) {n : BitVec 5} (halo : Bool) {lo j m c : Nat} (hj : j < 16)
    (hm : lo + m = 32 + j) (hn : n.toNat = c) (hl : 15 - j < c ↔ 43 ≤ m) :
    bitEdge (fc.extractLsb' lo 16) n halo (15 - j) = fcEdge fc halo m := by
  have hi : lo + (15 - j) = 47 - m := by omega
  have hb : 15 - j < 16 := by omega
  simp only [bitEdge, fcEdge, BitVec.getLsbD_extractLsb', hn, hl, hi, hb, decide_true, Bool.true_and]

theorem range_48_eq_append :
    List.range 48 = List.range 16 ++ (List.range 16).map (16 + ·) ++ (List.range 16).map (32 + ·) := by decide

/-- From settled lines, an FC load leaves DATA at bit 0 of the FC word and the lines settled (R152). -/
theorem performEvents_fcloadEvents (fc : FcWord) {p : Pins} (hp : p.Settled) :
    performEvents p (fcloadEvents fc)
      = { data := fc.getLsbD 0, clock := false, latch := false, halo := p.halo } := by
  rw [fcloadEvents, performEvents_append, performEvents_append, performEvents_shiftEvents _ _ hp,
    performEvents_shiftEvents _ _ ⟨rfl, rfl⟩, performEvents_shiftEvents _ _ ⟨rfl, rfl⟩]
  simp [fcLow]

/-- From settled lines, an FC load samples the FC word from bit 47 down to bit 0 (R58, R152). -/
theorem risingEdges_fcloadEvents (fc : FcWord) {p : Pins} (hp : p.Settled) :
    risingEdges p (fcloadEvents fc) = (List.range 48).map (fcEdge fc p.halo) := by
  rw [fcloadEvents, risingEdges_append, risingEdges_append, performEvents_append, performEvents_shiftEvents _ _ hp,
    performEvents_shiftEvents _ _ ⟨rfl, rfl⟩, risingEdges_shiftEvents _ _ hp, risingEdges_shiftEvents _ _ ⟨rfl, rfl⟩,
    risingEdges_shiftEvents _ _ ⟨rfl, rfl⟩, range_48_eq_append, List.map_append, List.map_append, List.map_map, List.map_map]
  refine congrArg₂ _ (congrArg₂ _ ?_ ?_) ?_ <;> refine List.map_congr_left fun j hj => ?_
  all_goals replace hj : j < 16 := List.mem_range.1 hj
  · exact bitEdge_extractLsb' (m := j) (c := 0) fc _ hj (by omega) rfl (by omega)
  · exact bitEdge_extractLsb' (m := 16 + j) (c := 0) fc _ hj (by omega) rfl (by omega)
  · exact bitEdge_extractLsb' (m := 32 + j) (c := 5) fc _ hj (by omega) rfl (by omega)

/-! ## Bus errors -/

/-- An access outside RST that is not a whole aligned word raises BusError at its offset (R53, R203). -/
theorem hostAccess_not_aligned_word {a : Access} {s : State} (hr : s.rst = false)
    (ha : a.width ≠ .word ∨ a.off.toNat % 4 ≠ 0) : hostAccess a s = .next (s.raiseBusError a.off) := by
  have hn : a.isAlignedWord = false := by
    rw [Bool.eq_false_iff, Ne, Access.isAlignedWord_iff, not_and_or]
    exact ha
  simp [hostAccess, hr, hn]

/-! ## The statements of the family -/

/-- Settles O21, by induction on the schedule: each of its turns takes an event or leaves the queue alone. -/
theorem servedEngineEmptiesTheQueue : Obligations.ServedEngineEmptiesTheQueue :=
  fun _ _ _ hr ht hn hl => exists_run_queue_empty hr ht hn hl

/-- Settles O35: the edges of three shifts, put together to the FC word. -/
theorem fcloadStreamsTheFcWordMsbFirst : Obligations.FcloadStreamsTheFcWordMsbFirst := fun s hq =>
  ⟨fcloadEvents s.fc, exec_enqueues rfl rfl hq, fcloadEvents_length s.fc, fun hc hl =>
    ⟨risingEdges_fcloadEvents s.fc ⟨hc, hl⟩, performEvents_fcloadEvents s.fc ⟨hc, hl⟩⟩⟩

/-- Settles O52: the turns before the engine's are bounded, and every other turn uses one of them up. -/
theorem everyRunIsFair : Obligations.EveryRunIsFair :=
  fun _ hr n _ => hr.exists_engine_turn n

/-- Settles O53: the run keeps the outcome of the pending events until none is left. -/
theorem pendingEventsAreAllPerformed : Obligations.PendingEventsAreAllPerformed := by
  intro s hr hn
  obtain ⟨k, t, hrun, hq, ho⟩ := exists_run_outcome s hr hn
  rw [State.outcome_of_idle hq] at ho
  obtain ⟨hp, hw⟩ := Prod.mk.inj ho
  exact ⟨k, t, hrun, hq, hp, hw⟩

/-- Settles O11: the access raises BusError, and a state with a fault recorded is not final. -/
theorem nonWordAccessesAreBusErrors : Obligations.NonWordAccessesAreBusErrors := by
  intro s ts hs a hr ht hh ha
  refine ⟨?_, fun hf => absurd hf.not_faulted (by simp)⟩
  rw [step_access ht hh]
  exact hostAccess_not_aligned_word hr ha

/-- Settles O15: above an aligned BASE, address bits [4:0] are the distance from it. -/
theorem windowIsThirtyTwoBytesAtBase : Obligations.WindowIsThirtyTwoBytesAtBase := by
  intro base addr off hb
  have hlt := off.isLt
  unfold platformOffset
  split
  · rw [Option.some.injEq, ← BitVec.toNat_inj, BitVec.toNat_ofNat]
    omega
  · simp only [reduceCtorEq, false_iff]
    omega

end Sys2Proof.Machine
end

section
/-! PROOFS. The family spec/30_encoding.md: decoder and encoder are inverse to each other, the legal words by their
masks, and what a word written to CMD makes the step do. -/

namespace Sys2Proof

/-! ## Decoding a format -/

theorem decode_formatS (sel : BitVec 4) (value : Word) : decode (formatS sel value) = .ok (setterOf sel value) := by
  simp only [decode, formatS_op, formatS_reserved, formatS_sel, formatS_value]
  rfl

theorem decode_formatT (n : BitVec 5) (word : Word) : decode (formatT n word) = .ok (.shift word n) := by
  simp only [decode, formatT_op, formatT_reserved, formatT_count, formatT_word]
  rfl

theorem decode_formatD (d : Bool) : decode (formatD d) = .ok (.setdata d) := by
  cases d <;> rfl

theorem decode_formatR (dir : Bool) {ch : BitVec 2} (f : Word) (hc : ch ≠ 3#2) :
    decode (formatR dir ch f) = .ok (.render f ch dir) := by
  simp only [decode, formatR_op, formatR_reserved, formatR_channel, formatR_index, formatR_dir]
  cases dir <;> exact if_neg hc

/-! ## A word as the format of its fields -/

/-- Two neighbouring fields of a word are one field. -/
theorem bits_append_bits (v : Word32) {hi lo a b : Nat} (h : hi = lo + b) :
    bits v hi a ++ bits v lo b = bits v lo (a + b) :=
  BitVec.extractLsb'_append_extractLsb'_eq_extractLsb' h

/-- All the bits of a word are the word. -/
theorem bits_whole (v : Word32) : bits v 0 32 = v := BitVec.extractLsb'_eq_self

theorem ofBool_beq_one (b : BitVec 1) : BitVec.ofBool (b == 1#1) = b := by
  revert b
  decide

theorem formatZ_of_fields {v : Word32} {op : BitVec 4} (hop : bits v 28 4 = op) (hz : bits v 0 28 = 0#28) :
    formatZ op = v := by
  simp only [formatZ, ← hop, ← hz, bits_append_bits v]
  exact bits_whole v

theorem formatS_of_fields {v : Word32} (hop : bits v 28 4 = 0x1#4) (hz : bits v 16 8 = 0#8) :
    formatS (bits v 24 4) (bits v 0 16) = v := by
  simp only [formatS, ← hop, ← hz, bits_append_bits v]
  exact bits_whole v

theorem formatT_of_fields {v : Word32} (hop : bits v 28 4 = 0x2#4) (hz : bits v 21 7 = 0#7) :
    formatT (bits v 16 5) (bits v 0 16) = v := by
  simp only [formatT, ← hop, ← hz, bits_append_bits v]
  exact bits_whole v

theorem formatD_of_fields {v : Word32} (hop : bits v 28 4 = 0x3#4) (hz : bits v 1 27 = 0#27) :
    formatD (bits v 0 1 == 1#1) = v := by
  simp only [formatD, ofBool_beq_one, ← hop, ← hz, bits_append_bits v]
  exact bits_whole v

theorem formatR_of_fields {v : Word32} (hop : bits v 28 4 = 0x6#4) (hz : bits v 19 9 = 0#9) :
    formatR (bits v 18 1 == 1#1) (bits v 16 2) (bits v 0 16) = v := by
  simp only [formatR, ofBool_beq_one, ← hop, ← hz, bits_append_bits v]
  exact bits_whole v

/-! ## What the decoder answers -/

/-- A command is answered only over a reserved field that is zero. -/
theorem ifZero_eq_ok_iff {w : Nat} {reserved : BitVec w} {i j : Instr} :
    ifZero reserved i = .ok j ↔ reserved = 0#w ∧ i = j := by
  by_cases h : reserved = 0#w <;> simp [ifZero, h]

/-- The selectors of the encoder are those of R78. -/
theorem encode_setterOf (sel : BitVec 4) (value : Word) : encode (setterOf sel value) = formatS sel value := by
  obtain ⟨n, hn⟩ := sel
  interval_cases n <;> rfl

theorem setterOf_wf (sel : BitVec 4) (value : Word) : (setterOf sel value).wf = true := by
  unfold setterOf
  split <;> rfl

/-- `legal(v)` row by row, with the opcode and the reserved field of each format (R79). -/
theorem legal_iff (v : Word32) :
    legal v = true ↔
      (bits v 28 4 = 0x0#4 ∧ bits v 0 28 = 0#28) ∨ (bits v 28 4 = 0x4#4 ∧ bits v 0 28 = 0#28)
        ∨ (bits v 28 4 = 0x5#4 ∧ bits v 0 28 = 0#28) ∨ (bits v 28 4 = 0x1#4 ∧ bits v 16 8 = 0#8)
        ∨ (bits v 28 4 = 0x2#4 ∧ bits v 21 7 = 0#7) ∨ (bits v 28 4 = 0x3#4 ∧ bits v 1 27 = 0#27)
        ∨ ((bits v 28 4 = 0x6#4 ∧ bits v 19 9 = 0#9) ∧ bits v 16 2 ≠ 3#2) := by
  unfold legal
  generalize bits v 28 4 = op
  obtain ⟨n, hn⟩ := op
  interval_cases n <;> simp

theorem decode_encode {i : Instr} (h : i.wf = true) : decode (encode i) = .ok i := by
  cases i with
  | nop | unlock | fcload => rfl
  | shift word n => exact decode_formatT n word
  | setdata d => exact decode_formatD d
  | render f ch dir => exact decode_formatR dir f (bne_iff_ne.1 h)
  | _ => exact decode_formatS _ _

/-- A legal word is the word of the command that its opcode and its fields name. -/
theorem exists_wf_encode_of_legal {v : Word32} (h : legal v = true) : ∃ i : Instr, i.wf = true ∧ encode i = v := by
  rcases (legal_iff v).1 h with ⟨hop, hz⟩ | ⟨hop, hz⟩ | ⟨hop, hz⟩ | ⟨hop, hz⟩ | ⟨hop, hz⟩ | ⟨hop, hz⟩ | ⟨⟨hop, hz⟩, hc⟩
  · exact ⟨.nop, rfl, formatZ_of_fields hop hz⟩
  · exact ⟨.unlock, rfl, formatZ_of_fields hop hz⟩
  · exact ⟨.fcload, rfl, formatZ_of_fields hop hz⟩
  · exact ⟨setterOf _ _, setterOf_wf _ _, (encode_setterOf _ _).trans (formatS_of_fields hop hz)⟩
  · exact ⟨.shift _ _, rfl, formatT_of_fields hop hz⟩
  · exact ⟨.setdata _, rfl, formatD_of_fields hop hz⟩
  · exact ⟨.render _ _ _, bne_iff_ne.2 hc, formatR_of_fields hop hz⟩

/-- The decoder answers no command for an illegal word, whatever its opcode. -/
theorem legal_of_decode {v : Word32} {i : Instr} (h : decode v = .ok i) : legal v = true := by
  unfold decode at h
  split at h
  -- Opcode 6 is the one with a check of its own: the channel.
  case h_7 hop =>
    split at h
    · cases h
    · next hc => simpa [legal, hop, hc] using (ifZero_eq_ok_iff.1 h).1
  case h_8 => cases h
  all_goals
    next hop =>
    simpa [legal, hop] using (ifZero_eq_ok_iff.1 h).1

theorem encode_of_decode {v : Word32} {i : Instr} (h : decode v = .ok i) : i.wf = true ∧ encode i = v := by
  obtain ⟨j, hwf, rfl⟩ := exists_wf_encode_of_legal (legal_of_decode h)
  rw [decode_encode hwf] at h
  obtain rfl := Except.ok.inj h
  exact ⟨hwf, rfl⟩

theorem exists_decode_iff_legal (v : Word32) : (∃ i, decode v = .ok i) ↔ legal v = true := by
  refine ⟨fun ⟨i, h⟩ => legal_of_decode h, fun h => ?_⟩
  obtain ⟨i, hwf, rfl⟩ := exists_wf_encode_of_legal h
  exact ⟨i, decode_encode hwf⟩

/-! ## The rows of the opcode table by their masks -/

/-- The word with 1 in the `w` bits from `lo` up and 0 elsewhere. -/
def maskAt (lo w : Nat) : Word32 := (BitVec.allOnes w).setWidth 32 <<< lo

theorem shifted_getLsbD {w : Nat} (x : BitVec w) (lo : Nat) {k : Nat} (hk : k < 32) :
    (x.setWidth 32 <<< lo).getLsbD k = (!decide (k < lo) && x.getLsbD (k - lo)) := by
  simp [hk]

theorem maskAt_getLsbD (lo w : Nat) {k : Nat} (hk : k < 32) :
    (maskAt lo w).getLsbD k = decide (lo ≤ k ∧ k < lo + w) := by
  rw [maskAt, shifted_getLsbD _ _ hk, BitVec.getLsbD_allOnes, ← decide_not, ← Bool.decide_and]
  exact decide_eq_decide.2 (by omega)

/-- The field that a value is shifted to holds the value. -/
theorem bits_shifted {w : Nat} (x : BitVec w) {lo : Nat} (h : lo + w ≤ 32) : bits (x.setWidth 32 <<< lo) lo w = x :=
  bits_eq_of_getLsbD fun k hk => by simp [shifted_getLsbD x lo (k := lo + k) (by omega)]

/-- Below a shifted value every field is zero. -/
theorem bits_below_shifted {n : Nat} (x : BitVec n) {hi lo w : Nat} (h : lo + w ≤ hi) :
    bits (x.setWidth 32 <<< hi) lo w = 0#w :=
  bits_eq_of_getLsbD fun k hk => by simp [show lo + k < hi by omega]

/-- A word under the mask of a field is the field in its place. -/
theorem and_maskAt (v : Word32) (lo w : Nat) : v &&& maskAt lo w = (bits v lo w).setWidth 32 <<< lo := by
  refine BitVec.eq_of_getLsbD_eq fun k hk => ?_
  rw [BitVec.getLsbD_and, maskAt_getLsbD lo w hk, shifted_getLsbD _ lo hk, bits_getLsbD]
  by_cases hlo : k < lo
  · simp [hlo, Nat.not_le.2 hlo]
  · replace hlo := Nat.not_lt.1 hlo
    rw [Nat.add_sub_cancel' hlo]
    simp [hlo, Nat.not_lt.2 hlo, Nat.sub_lt_iff_lt_add' hlo, Bool.and_comm]

/-- A word under a mask has the fields that the mask covers. -/
theorem bits_and_of_covered {v m : Word32} {lo w : Nat} (hm : ∀ k < w, m.getLsbD (lo + k) = true) :
    bits (v &&& m) lo w = bits v lo w :=
  bits_eq_of_getLsbD fun k hk => by rw [BitVec.getLsbD_and, hm k hk, bits_getLsbD]; simp [hk]

theorem and_maskAt_eq_iff (v : Word32) {lo w : Nat} (h : lo + w ≤ 32) (x : BitVec w) :
    v &&& maskAt lo w = x.setWidth 32 <<< lo ↔ bits v lo w = x := by
  rw [and_maskAt]
  exact ⟨fun he => by rw [← bits_shifted (bits v lo w) h, he, bits_shifted x h], fun he => by rw [he]⟩

/-- A word under the mask of its opcode and a reserved field shows the opcode and the field's zeros. -/
theorem and_rowMask_eq_iff (v : Word32) {lo w : Nat} (h : lo + w ≤ 28) (op : BitVec 4) :
    v &&& (maskAt 28 4 ||| maskAt lo w) = op.setWidth 32 <<< 28 ↔ bits v 28 4 = op ∧ bits v lo w = 0#w := by
  constructor
  · intro he
    have hop : bits (v &&& (maskAt 28 4 ||| maskAt lo w)) 28 4 = bits v 28 4 :=
      bits_and_of_covered fun k hk => by
        have hk' : 28 + k < 32 := by omega
        simp [maskAt_getLsbD 28 4 hk', hk']
    have hz : bits (v &&& (maskAt 28 4 ||| maskAt lo w)) lo w = bits v lo w :=
      bits_and_of_covered fun k hk => by simp [maskAt_getLsbD lo w (k := lo + k) (by omega), hk]
    rw [he] at hop hz
    exact ⟨hop.symm.trans (bits_shifted op (by decide)), hz.symm.trans (bits_below_shifted op h)⟩
  · rintro ⟨rfl, hz⟩
    rw [BitVec.and_or_distrib_left, and_maskAt, and_maskAt, hz]
    simp

/-- A word of format Z is its opcode shifted to its place. -/
theorem formatZ_fields_iff (v : Word32) (op : BitVec 4) :
    bits v 28 4 = op ∧ bits v 0 28 = 0#28 ↔ v = op.setWidth 32 <<< 28 := by
  rw [← and_rowMask_eq_iff v (by decide)]
  exact iff_of_eq (congrArg (· = _) (BitVec.and_allOnes (x := v)))

/-- The rows of `legal(v)` as masks of the whole word. -/
theorem legal_iff_masks (v : Word32) :
    legal v = true ↔
      v = 0x00000000#32 ∨ v = 0x40000000#32 ∨ v = 0x50000000#32
        ∨ v &&& 0xF0FF0000#32 = 0x10000000#32
        ∨ v &&& 0xFFE00000#32 = 0x20000000#32
        ∨ v &&& 0xFFFFFFFE#32 = 0x30000000#32
        ∨ (v &&& 0xFFF80000#32 = 0x60000000#32 ∧ v &&& 0x00030000#32 ≠ 0x00030000#32) :=
  (legal_iff v).trans <|
    or_congr (formatZ_fields_iff v 0x0#4) <| or_congr (formatZ_fields_iff v 0x4#4) <|
    or_congr (formatZ_fields_iff v 0x5#4) <|
    or_congr (and_rowMask_eq_iff v (lo := 16) (w := 8) (by decide) 0x1#4).symm <|
    or_congr (and_rowMask_eq_iff v (lo := 21) (w := 7) (by decide) 0x2#4).symm <|
    or_congr (and_rowMask_eq_iff v (lo := 1) (w := 27) (by decide) 0x3#4).symm <|
    and_congr (and_rowMask_eq_iff v (lo := 19) (w := 9) (by decide) 0x6#4).symm
      (and_maskAt_eq_iff v (by decide) 3#2).symm.not

/-! ## Encoding by shifts and ors -/

theorem formatS_eq_shifts (sel : BitVec 4) (value : Word) :
    formatS sel value = (0x1#32 <<< 28) ||| (sel.setWidth 32 <<< 24) ||| value.setWidth 32 := by
  rw [← BitVec.setWidth_eq (formatS sel value)]
  show BitVec.setWidth 32 (0x1#4 ++ sel ++ 0#8 ++ value) = _
  rw [BitVec.setWidth_append_append_append_eq_shiftLeft_setWidth_or]
  simp

theorem formatT_eq_shifts (n : BitVec 5) (word : Word) :
    formatT n word = (0x2#32 <<< 28) ||| (n.setWidth 32 <<< 16) ||| word.setWidth 32 := by
  rw [← BitVec.setWidth_eq (formatT n word)]
  exact BitVec.setWidth_append_append_append_eq_shiftLeft_setWidth_or (b' := 0#7)

theorem formatD_eq_shifts (d : Bool) : formatD d = (0x3#32 <<< 28) ||| (if d then 1#32 else 0#32) := by
  cases d <;> rfl

theorem formatR_eq_shifts (dir : Bool) (ch : BitVec 2) (f : Word) :
    formatR dir ch f
      = (0x6#32 <<< 28) ||| ((if dir then 1#32 else 0#32) <<< 18) ||| (ch.setWidth 32 <<< 16) ||| f.setWidth 32 := by
  rw [← BitVec.setWidth_eq (formatR dir ch f)]
  show BitVec.setWidth 32 (0x6#4 ++ 0#9 ++ BitVec.ofBool dir ++ ch ++ f) = _
  rw [BitVec.setWidth_append_eq_shiftLeft_setWidth_or, BitVec.setWidth_append_append_append_eq_shiftLeft_setWidth_or]
  cases dir <;> simp [BitVec.shiftLeft_or_distrib]

/-! ## The statements of the family: encoding -/

/-- Settles O3: the fields of each format are read back as they were put in. -/
theorem decodeInvertsEncode : Obligations.DecodeInvertsEncode := fun _ => decode_encode

/-- Settles O4: a word that decodes is legal, so it is the word of some command, and O3 says of which. -/
theorem encodeInvertsDecode : Obligations.EncodeInvertsDecode := fun _ _ => encode_of_decode

/-- Settles O5: a legal word is the word of a well-formed command, and each row's mask shows the opcode and the reserved
field. -/
theorem legalWordsAreTheDecodedWords : Obligations.LegalWordsAreTheDecodedWords :=
  fun v => ⟨exists_decode_iff_legal v, legal_iff_masks v⟩

/-- Settles O2, one format after the other. -/
theorem encodingIsTheShiftedFields : Obligations.EncodingIsTheShiftedFields :=
  ⟨rfl, fun sel value => (encode_setterOf sel value).trans (formatS_eq_shifts sel value),
    fun word n => formatT_eq_shifts n word, formatD_eq_shifts, rfl, rfl, fun f ch dir => formatR_eq_shifts dir ch f⟩

/-- Settles O1, by running the decoder on the nine words. -/
theorem writtenWordsDecode : Obligations.WrittenWordsDecode := by
  unfold Obligations.WrittenWordsDecode
  decide

end Sys2Proof

namespace Sys2Proof.Machine

/-! ## What a word written to CMD makes the step do -/

theorem writeCmd_of_decode_ok {v : Word32} {i : Instr} (h : decode v = .ok i) (s : State) : writeCmd v s = exec i s := by
  simp only [writeCmd, h]

theorem writeCmd_of_illegal {v : Word32} (h : legal v = false) (s : State) : writeCmd v s = accept State.flagIll s := by
  cases hd : decode v with
  | ok i => simp [legal_of_decode hd] at h
  | error e => simp only [writeCmd, hd]

/-- The step in which the host writes a word to CMD (R32, R81). -/
theorem step_cmdWrite {s : State} {ts : List Turn} {v : Word32} {hs : List HostAction} (hr : s.rst = false)
    (ht : s.turns = .agent .host :: ts) (hh : s.host = cmdWrite v :: hs) :
    step s = writeCmd v { s with turns := ts, host := hs, resp := some .written } :=
  step_write hr ht hh rfl

/-- Bit 0 of STATUS is BUSY (R33). -/
theorem statusReg_getLsbD_zero (s : State) : s.statusReg.getLsbD 0 = true ↔ s.queue ≠ [] := by
  rw [statusReg_getLsbD, if_pos rfl, busy_eq_true_iff]

/-- Outside RST, WAIT reads STATUS and stays exactly while events are pending (R83). -/
theorem waitRead_of_released {s : State} (hr : s.rst = false) (rest : List HostAction) :
    waitRead rest s
      = { s with host := if s.queue = [] then rest else s.host, resp := some (.value s.statusReg) } := by
  rw [waitRead, if_neg (by simp [hr])]
  by_cases hq : s.queue = []
  · rw [if_neg ((statusReg_getLsbD_zero s).not_left.2 hq), if_pos hq]
    rfl
  · rw [if_pos ((statusReg_getLsbD_zero s).2 hq), if_neg hq]
    rfl

theorem decode_of_decodeTableWord {nbits w : Nat} {i : Instr} (h : decodeTableWord nbits w = some i) :
    decode (tableWord nbits w) = .ok i := by
  unfold decodeTableWord at h
  split at h
  · cases hd : decode (tableWord nbits w) with
    | ok j => rw [hd] at h; exact congrArg _ (Option.some.inj h)
    | error e => rw [hd] at h; cases h
  · cases h

/-! ## The statements of the family: the command port -/

/-- Settles O6: the write decodes its word and runs the command. -/
theorem stepRunsTheWrittenCommand : Obligations.StepRunsTheWrittenCommand := by
  intro s ts hs v i hr ht hh hd
  rw [step_cmdWrite hr ht hh, writeCmd_of_decode_ok hd]

/-- Settles O7: the word that `withFetchWord` places is the host's next write to CMD. -/
theorem placedWordRunsNext : Obligations.PlacedWordRunsNext := by
  intro s w i hd
  exact stepRunsTheWrittenCommand (s.withFetchWord 32 w) s.turns s.host _ i rfl rfl rfl (decode_of_decodeTableWord hd)

/-- Settles O8: an illegal word is presented like a command whose effect is ERR_ILL. -/
theorem illegalWordsOnlySetErrIll : Obligations.IllegalWordsOnlySetErrIll := by
  intro s ts hs v hr ht hh hv
  rw [step_cmdWrite hr ht hh, writeCmd_of_illegal hv]
  exact ⟨fun hq => accept_idle hq, fun hq => accept_busy hq⟩

/-- Settles O14: the turn is one read of STATUS, whose BUSY bit decides whether WAIT stays. -/
theorem waitEndsWhenNotBusy : Obligations.WaitEndsWhenNotBusy := by
  intro s ts hs hr ht hh
  rw [step_of_turn ht]
  simp only [takeTurn, hostTurn, hh]
  rw [waitRead_of_released (by exact hr)]
  rfl

/-- Settles O37: `exec` gives the ill-formed RENDER the effect of its illegal word. -/
theorem renderOfChannelThreeIsIllegal : Obligations.RenderOfChannelThreeIsIllegal :=
  fun _ _ _ hq => exec_render_illegal hq

end Sys2Proof.Machine
end

section
/-! PROOFS. The family spec/40_codec.md: the pattern each setter stores, and what a sequence of setters leaves in the FC
word, field by field. -/

namespace Sys2Proof.Machine

/-! ## The patterns as numbers -/

theorem boolPattern_eq (value : Word) : boolPattern value = BitVec.ofBool (decide (value.toNat ≠ 0)) := by
  by_cases h : value = 0
  · subst h
    rfl
  · have hn : value.toNat ≠ 0 := fun h0 => h (BitVec.eq_of_toNat_eq h0)
    rw [boolPattern, if_neg h, decide_eq_true hn]
    rfl

theorem enum4Pattern_eq {w : Nat} (p0 p1 p2 p3 dflt : BitVec w) (value : Word) :
    enum4Pattern p0 p1 p2 p3 dflt value
      = if value.toNat = 0 then p0 else if value.toNat = 1 then p1
        else if value.toNat = 2 then p2 else if value.toNat = 3 then p3 else dflt := by
  unfold enum4Pattern
  match value.toNat with
  | 0 | 1 | 2 | 3 | n + 4 => rfl

/-- The table that lists each index at itself stores the index (R106, R107). -/
theorem enum4Pattern_identity (dflt : BitVec 2) (value : Word) :
    enum4Pattern 0#2 1#2 2#2 3#2 dflt value
      = if value.toNat < 4 then BitVec.ofNat 2 value.toNat else dflt := by
  unfold enum4Pattern
  match value.toNat with
  | 0 | 1 | 2 | 3 => rfl
  | n + 4 => exact (if_neg (by omega)).symm

theorem enum8Pattern_eq (dflt : BitVec 3) (value : Word) :
    enum8Pattern dflt value = if value.toNat < 8 then BitVec.ofNat 3 value.toNat else dflt := rfl

/-- The mask of R104 is the truncation to nine bits. -/
theorem uint9Pattern_eq (value : Word) : uint9Pattern value = BitVec.ofNat 9 (value.toNat % 512) := by
  have hmask : (value &&& 0x1FF#16).toNat = value.toNat % 512 := Nat.and_two_pow_sub_one_eq_mod _ 9
  rw [uint9Pattern, ← hmask]
  rfl

/-! ## One setter, bit by bit -/

/-- A command that is the one update of R101 on a field writes the field's pattern and no other bit. -/
theorem setsBits_of_fcset (fld : Field) {i : Instr} {value : Word} {pat : BitVec fld.width}
    (hx : ∀ s, exec i s = fcset fld value s) (hp : pattern fld value = pat) :
    setsBits i fld.lo fld.width pat := by
  subst hp
  exact fun s hq => ⟨_, (hx s).trans (fcset_idle fld value hq), fun _ hk => insertField_getLsbD _ _ _ hk⟩

/-! ## The FC word as its sixteen fields -/

/-- The fields cover the FC word (R23). -/
theorem exists_fieldOf_covering : ∀ k < 48, ∃ sel : BitVec 4,
    (fieldOf sel).lo ≤ k ∧ k < (fieldOf sel).lo + (fieldOf sel).width := by
  decide

theorem fcWord_ext {a b : FcWord} (h : ∀ sel, readField (fieldOf sel) a = readField (fieldOf sel) b) : a = b := by
  refine BitVec.eq_of_getLsbD_eq fun k hk => ?_
  obtain ⟨sel, hlo, hhi⟩ := exists_fieldOf_covering k hk
  have hbit := congrArg (BitVec.getLsbD · (k - (fieldOf sel).lo)) (h sel)
  simpa [readField, Nat.sub_lt_left_of_lt_add hlo hhi, Nat.add_sub_cancel' hlo] using hbit

/-- The FC word after the setter with the selector and the operand of `o`. -/
def setField (fc : FcWord) (o : BitVec 4 × Word) : FcWord :=
  insertField (fieldOf o.1) (pattern (fieldOf o.1) o.2) fc

theorem readField_setField (sel : BitVec 4) (fc : FcWord) (o : BitVec 4 × Word) :
    readField (fieldOf sel) (setField fc o)
      = if o.1 = sel then pattern (fieldOf sel) o.2 else readField (fieldOf sel) fc := by
  obtain ⟨sel', value⟩ := o
  by_cases h : sel' = sel
  · subst h
    rw [setField, readField_insertField_same, if_pos rfl]
  · rw [setField, readField_insertField_other fun hf => h (fieldOf_injective hf), if_neg h]

theorem setField_comm {o₁ o₂ : BitVec 4 × Word} (h : o₁.1 ≠ o₂.1) (fc : FcWord) :
    setField (setField fc o₁) o₂ = setField (setField fc o₂) o₁ := by
  refine fcWord_ext fun sel => ?_
  simp only [readField_setField]
  by_cases h₁ : o₁.1 = sel
  · have h₂ : o₂.1 ≠ sel := fun h₂ => h (h₁.trans h₂.symm)
    simp only [if_pos h₁, if_neg h₂]
  · simp only [if_neg h₁]

theorem setField_overwrites (sel : BitVec 4) (v₁ v₂ : Word) (fc : FcWord) :
    setField (setField fc (sel, v₁)) (sel, v₂) = setField fc (sel, v₂) := by
  refine fcWord_ext fun sel' => ?_
  simp only [readField_setField]
  by_cases h : sel = sel' <;> simp only [h, if_true, if_false]

/-- After a sequence of setters, a field that one of them writes does not depend on what the FC word was. -/
theorem readField_foldl_setField {sel : BitVec 4} {os : List (BitVec 4 × Word)} {a b : FcWord}
    (h : sel ∈ os.map Prod.fst ∨ readField (fieldOf sel) a = readField (fieldOf sel) b) :
    readField (fieldOf sel) (os.foldl setField a) = readField (fieldOf sel) (os.foldl setField b) := by
  induction os generalizing a b with
  | nil => exact h.resolve_left List.not_mem_nil
  | cons o os ih =>
    refine ih ?_
    simp only [readField_setField]
    by_cases ho : o.1 = sel
    · exact .inr (by simp only [if_pos ho])
    · simp only [if_neg ho]
      exact h.imp_left fun hm => (List.mem_cons.1 hm).resolve_left (Ne.symm ho)

/-! ## Sequences of setters -/

/-- Setters presented while idle are all accepted, and only the FC word changes. -/
theorem execAll_setterOf (os : List (BitVec 4 × Word)) {s : State} (hq : s.queue = []) :
    execAll (os.map fun o => setterOf o.1 o.2) s = .next (s.writeFc (os.foldl setField s.fc)) := by
  induction os generalizing s with
  | nil => rfl
  | cons o os ih =>
    rw [List.map_cons, execAll_cons (exec_setterOf_idle o.1 o.2 hq)]
    exact ih hq

/-- The selectors and operands of the init program's setters (R83, R154). -/
def FcPreset.operands (p : FcPreset) : List (BitVec 4 × Word) :=
  [(0x0, p.lod), (0x1, p.hold), (0x2, p.gdly), (0x3, p.autoref), (0x4, p.gsedge), (0x5, p.pchg), (0x6, p.epwm),
   (0x7, p.bluecomp), (0x8, p.dbledge), (0x9, p.lgse1), (0xA, p.brb), (0xB, p.brg), (0xC, p.brr), (0xD, p.gain),
   (0xE, p.poker), (0xF, p.lgse2)]

theorem FcPreset.setters_eq (p : FcPreset) : p.setters = p.operands.map fun o => setterOf o.1 o.2 := rfl

/-- Every field has its setter in the init program. -/
theorem FcPreset.mem_selectors (p : FcPreset) : ∀ sel, sel ∈ p.operands.map Prod.fst := by
  simp only [FcPreset.operands, List.map_cons, List.map_nil]
  decide

/-! ## The statements of the family -/

/-- Settles O23: the eight fields have the boolean pattern. -/
theorem booleanSettersStoreNonzero : Obligations.BooleanSettersStoreNonzero := fun value =>
  have hp := boolPattern_eq value
  ⟨setsBits_of_fcset .gdly (fun _ => rfl) hp, setsBits_of_fcset .autoref (fun _ => rfl) hp,
    setsBits_of_fcset .gsedge (fun _ => rfl) hp, setsBits_of_fcset .pchg (fun _ => rfl) hp,
    setsBits_of_fcset .epwm (fun _ => rfl) hp, setsBits_of_fcset .bluecomp (fun _ => rfl) hp,
    setsBits_of_fcset .dbledge (fun _ => rfl) hp, setsBits_of_fcset .poker (fun _ => rfl) hp⟩

/-- Settles O24: the tables of LOD and HOLD list each index at itself, and GAIN's is the operand's low bits. -/
theorem identityEnumSettersStoreTheIndex : Obligations.IdentityEnumSettersStoreTheIndex := fun value =>
  ⟨setsBits_of_fcset .lod (fun _ => rfl) (enum4Pattern_identity _ value),
    setsBits_of_fcset .hold (fun _ => rfl) (enum4Pattern_identity _ value),
    setsBits_of_fcset .gain (fun _ => rfl) (enum8Pattern_eq _ value)⟩

/-- Settles O25: the two fields have the table's pattern. -/
theorem tableEnumSettersStoreTheListedPattern : Obligations.TableEnumSettersStoreTheListedPattern := fun value =>
  ⟨setsBits_of_fcset .lgse1 (fun _ => rfl) (enum4Pattern_eq _ _ _ _ _ value),
    setsBits_of_fcset .lgse2 (fun _ => rfl) (enum4Pattern_eq _ _ _ _ _ value)⟩

/-- Settles O26: the three fields have the nine-bit pattern. -/
theorem brightnessSettersTruncateToNineBits : Obligations.BrightnessSettersTruncateToNineBits := fun value =>
  have hp := uint9Pattern_eq value
  ⟨setsBits_of_fcset .brb (fun _ => rfl) hp, setsBits_of_fcset .brg (fun _ => rfl) hp,
    setsBits_of_fcset .brr (fun _ => rfl) hp⟩

/-- Settles O27: in either order each of the two fields holds its own pattern and the rest is as before. -/
theorem settersOfDifferentFieldsCommute : Obligations.SettersOfDifferentFieldsCommute := by
  intro sel₁ sel₂ v₁ v₂ s hne hq
  refine ⟨_, execAll_setterOf [(sel₁, v₁), (sel₂, v₂)] hq, ?_⟩
  have hcomm : setField (setField s.fc (sel₁, v₁)) (sel₂, v₂) = setField (setField s.fc (sel₂, v₂)) (sel₁, v₁) :=
    setField_comm hne s.fc
  simp only [List.foldl_cons, List.foldl_nil, hcomm]
  exact execAll_setterOf [(sel₂, v₂), (sel₁, v₁)] hq

/-- Settles O28: the second setter clears what the first one wrote. -/
theorem lastSetterOfAFieldWins : Obligations.LastSetterOfAFieldWins := by
  intro sel v₁ v₂ s hq
  calc execAll [setterOf sel v₁, setterOf sel v₂] s
    _ = .next (s.writeFc (setField (setField s.fc (sel, v₁)) (sel, v₂))) := execAll_setterOf [(sel, v₁), (sel, v₂)] hq
    _ = .next (s.writeFc (setField s.fc (sel, v₂))) := by rw [setField_overwrites]
    _ = exec (setterOf sel v₂) s := (exec_setterOf_idle sel v₂ hq).symm

/-- Settles O29: every field is written by one of the sixteen setters, and the fields cover the FC word. -/
theorem sixteenSettersDetermineTheFcWord : Obligations.SixteenSettersDetermineTheFcWord := by
  intro p s₁ s₂ hq₁ hq₂
  rw [p.setters_eq]
  exact ⟨_, _, execAll_setterOf _ hq₁, execAll_setterOf _ hq₂,
    fcWord_ext fun sel => readField_foldl_setField (.inl (p.mem_selectors sel))⟩

end Sys2Proof.Machine
end

section
/-! PROOFS. The family spec/41_transmitter.md: the events that NOP, SETDATA and SHIFT queue, the engine's turns, and the
lines while events are pending. -/

namespace Sys2Proof.Machine

/-! ## The engine's scheduled turns -/

/-- With nothing pending, a scheduled turn of the engine changes only the schedule (log entry 3). -/
theorem step_engine_idle {s : State} {ts : List Turn} (ht : s.turns = .agent .engine :: ts) (hq : s.queue = []) :
    step s = .next { s with turns := ts } := by
  rw [step_of_turn ht]
  simp [takeTurn, engineStep, hq]

/-- Outside reset, a scheduled turn of the engine performs the head of the queue (R130, R131). -/
theorem step_engine_head {s : State} {ts : List Turn} {e : Event} {rest : List Event} (hr : s.rst = false)
    (ht : s.turns = .agent .engine :: ts) (hq : s.queue = e :: rest) :
    step s = .next { s with
      turns := ts, queue := rest, pins := performEvent s.pins e
      wave := .event (performEvent s.pins e) :: s.wave } := by
  rw [step_of_turn ht]
  simp [takeTurn, engineStep, hr, hq]

/-- `k` turns of the engine in a row perform the first `k` pending events. -/
theorem run_engine_turns {k : Nat} {s : State} {ts : List Turn} (hr : s.rst = false)
    (ht : s.turns = List.replicate k (.agent .engine) ++ ts) (hk : k ≤ s.queue.length) :
    Host.Core.run Sys2Proof.core k s
      = .next { s with
          turns := ts
          pins := performEvents s.pins (s.queue.take k)
          queue := s.queue.drop k
          wave := ((waveform s.pins (s.queue.take k)).map WaveStep.event).reverse ++ s.wave } := by
  induction k generalizing s with
  | zero =>
    obtain rfl : s.turns = ts := ht
    rfl
  | succ k ih =>
    obtain ⟨e, rest, hq⟩ := List.exists_cons_of_length_pos (Nat.zero_lt_of_lt hk)
    rw [hq, List.length_cons, Nat.succ_le_succ_iff] at hk
    rw [run_succ k (step_engine_head hr ht hq), ih (by exact hr) rfl hk]
    simp [hq, waveform, performEvents_cons]

/-! ## Redundant events -/

/-- The first event adds a vector to the merged waveform exactly when it changes the lines (R131). -/
theorem mergedWaveform_cons (p : Pins) (e : Event) (es : List Event) :
    mergedWaveform p (e :: es)
      = if performEvent p e = p then mergedWaveform p es else p :: mergedWaveform (performEvent p e) es := by
  by_cases h : performEvent p e = p
  · simp [mergedWaveform, waveform, mergeFrom, h]
  · simp [mergedWaveform, waveform, mergeFrom, h]

/-- An event that leaves the lines as they are can be left out of a merged waveform. -/
theorem mergedWaveform_append_redundant {p : Pins} {es : List Event} {e : Event} (fs : List Event)
    (h : performEvent (performEvents p es) e = performEvents p es) :
    mergedWaveform p (es ++ e :: fs) = mergedWaveform p (es ++ fs) := by
  induction es generalizing p with
  | nil => exact (mergedWaveform_cons p e fs).trans (if_pos h)
  | cons a es ih =>
    have hp : mergedWaveform (performEvent p a) (es ++ e :: fs) = mergedWaveform (performEvent p a) (es ++ fs) := ih h
    rw [List.cons_append, List.cons_append, mergedWaveform_cons, mergedWaveform_cons]
    split
    · next hs => rwa [hs] at hp
    · rw [hp]

/-! ## The edges of SHIFT -/

/-- Edge `j` of a SHIFT, counted from 0, samples bit `15 - j`; it is under latch when `n` reaches that far (R134). -/
theorem bitEdge_fifteen_sub (w : Word) (n : BitVec 5) (halo : Bool) {j : Nat} (hj : j < 16) :
    bitEdge w n halo (15 - j)
      = { data := w.getLsbD (15 - j), clock := true, latch := decide (16 ≤ j + n.toNat), halo := halo } := by
  have hl : 15 - j < n.toNat ↔ 16 ≤ j + n.toNat := by omega
  simp only [bitEdge, hl]

/-! ## The statements of the family -/

/-- Settles O20, by induction on the number of turns: the first one performs the head of the queue. -/
theorem engineRunPerformsEventsInOrder : Obligations.EngineRunPerformsEventsInOrder :=
  fun _ _ _ hr ht hk => run_engine_turns hr ht hk

/-- Settles O22: both merged waveforms agree up to the redundant event, which adds no vector. -/
theorem redundantEventsAreInvisible : Obligations.RedundantEventsAreInvisible :=
  fun _ _ fs _ h => beq_iff_eq.2 (mergedWaveform_append_redundant fs h)

/-- Settles O33: the edges of `shift_events`, with the latch window counted from the first edge. -/
theorem shiftWaveformHasSixteenEdges : Obligations.ShiftWaveformHasSixteenEdges := by
  intro word n s hq hc hl
  have hp : s.pins.Settled := ⟨hc, hl⟩
  refine ⟨_, exec_enqueues rfl rfl hq, shiftEvents_length word n, ?_, performEvents_shiftEvents word n hp⟩
  refine (risingEdges_shiftEvents word n hp).trans (List.map_congr_left fun j hj => ?_)
  exact bitEdge_fifteen_sub word n _ (List.mem_range.1 hj)

/-- Settles O48: of all that a step can do to a busy block, only an RST assertion and the engine's step write the queue
or the pins. -/
theorem nothingButResetInterruptsACommand : Obligations.NothingButResetInterruptsACommand := by
  intro s t e rest hst hq
  have hne : s.queue ≠ [] := by simp [hq]
  obtain ⟨b, d, hb, rfl⟩ := step_blockStep hst
  generalize (nextTurn s).1 = u at hb ⊢
  cases hb with
  | assertRst => exact ⟨fun _ => rfl, fun hu => absurd rfl hu⟩
  | perform _ hq' =>
    obtain ⟨rfl, rfl⟩ := List.cons.inj (hq.symm.trans hq')
    exact ⟨nofun, fun _ => .inr ⟨rfl, rfl⟩⟩
  | command _ _ _ hx =>
    rw [exec_busy hne hx]
    exact ⟨nofun, fun _ => .inl ⟨rfl, rfl⟩⟩
  | illegal =>
    rw [present_busy hne]
    exact ⟨nofun, fun _ => .inl ⟨rfl, rfl⟩⟩
  | releaseRst | unchanged | clearErrors => exact ⟨nofun, fun _ => .inl ⟨rfl, rfl⟩⟩

/-- Settles O19: the four clauses for a busy engine are its step on each kind of event. -/
theorem engineStepPerformsTheHead : Obligations.EngineStepPerformsTheHead := by
  intro s ts b rest hr ht
  exact ⟨step_engine_idle ht, step_engine_head hr ht, step_engine_head hr ht, step_engine_head hr ht,
    step_engine_head hr ht⟩

/-- Settles O30: an accepted NOP queues nothing. -/
theorem nopChangesNothing : Obligations.NopChangesNothing :=
  fun _ hq => accept_idle hq

/-- Settles O31: SETDATA is one of the commands that only queue their events. -/
theorem setdataQueuesOneEvent : Obligations.SetdataQueuesOneEvent :=
  fun _ _ hq => exec_enqueues rfl rfl hq

/-- Settles O32: SHIFT queues `shift_events`, the events of the bits 15 down to 0 one after another. -/
theorem shiftQueuesTheWordMsbFirst : Obligations.ShiftQueuesTheWordMsbFirst := by
  intro word n s hq
  rw [exec_enqueues rfl rfl hq, commandEvents, shiftEvents, List.flatMap_def, funext (bitEvents_eq word n)]
  rfl

end Sys2Proof.Machine
end

section
/-! PROOFS. The family spec/42_init_sequence.md: the clock pulses of UNLOCK and the rising edges they make. -/

namespace Sys2Proof.Machine

/-- The pulses one by one, as R150 lists them. -/
theorem clockPulses_eq_flatten (n : Nat) :
    clockPulses n = (List.replicate n [Event.setClock true, .setClock false]).flatten := by
  induction n with
  | zero => rfl
  | succ n ih => rw [clockPulses, ih, List.replicate_succ, List.flatten_cons]; rfl

/-- From CLOCK low every pulse makes one rising edge, and brings back the levels it started from. -/
theorem risingEdges_clockPulses (n : Nat) {p : Pins} (hc : p.clock = false) :
    risingEdges p (clockPulses n) = List.replicate n { p with clock := true } := by
  induction n with
  | zero => rfl
  | succ n ih =>
    have hp : performEvent (performEvent p (.setClock true)) (.setClock false) = p := by simp [performEvent, ← hc]
    rw [clockPulses, risingEdges, risingEdges, hp, ih, List.replicate_succ]
    simp [performEvent, hc]

/-- From CLOCK low UNLOCK makes 15 rising edges, all under latch, with DATA and HALO_EN as they were (R150). -/
theorem risingEdges_unlockEvents {p : Pins} (hc : p.clock = false) :
    risingEdges p unlockEvents = List.replicate 15 { p with clock := true, latch := true } := by
  have hfirst : risingEdges p [.setLatch true] = [] := by simp [risingEdges, performEvent]
  have hlast : ∀ q : Pins, risingEdges q [.setLatch false] = [] := fun q => by simp [risingEdges, performEvent]
  rw [unlockEvents, List.cons_append, ← List.singleton_append, risingEdges_append, risingEdges_append, hfirst, hlast,
    List.nil_append, List.append_nil]
  exact risingEdges_clockPulses unlockClocks hc

/-! ## The statement of the family -/

/-- Settles O34: UNLOCK is one of the commands that only queue their events, here the clock pulses between LATCH high and
LATCH low. -/
theorem unlockQueuesFifteenPulsesUnderLatch : Obligations.UnlockQueuesFifteenPulsesUnderLatch := fun _ hq =>
  ⟨unlockEvents, exec_enqueues rfl rfl hq, by rw [unlockEvents, clockPulses_eq_flatten, unlockClocks],
    unlockEvents_length, risingEdges_unlockEvents⟩

end Sys2Proof.Machine
end

section
/-! PROOFS. The family spec/43_frame_streamer.md: what RENDER writes and queues, the edges and the latch windows of a
frame, and what leaves the result alone. -/

namespace Sys2Proof.Machine

/-! ## The operands of a frame -/

theorem frameKidx_toNat (f : Word) : (frameKidx f).toNat = f.toNat % 16 := by
  simp [frameKidx, ledCount]

/-- The lit position is the index, or counted down from 15 (R171). -/
theorem frameLitpos_toNat (f : Word) (dir : Bool) :
    (frameLitpos f dir).toNat = if dir then 15 - f.toNat % 16 else f.toNat % 16 := by
  cases dir with
  | false => exact frameKidx_toNat f
  | true =>
    have hle : frameKidx f ≤ 15#4 := BitVec.le_def.2 (Nat.le_of_lt_succ (frameKidx f).isLt)
    rw [frameLitpos, if_pos rfl, if_pos rfl, BitVec.toNat_sub_of_le hle, frameKidx_toNat]
    rfl

theorem ne_three_of_toNat_lt {ch : BitVec 2} (h : ch.toNat < 3) : ch ≠ 3#2 := by
  rintro rfl
  exact absurd h (by decide)

/-- All bits of a greyscale word are equal: 1 for the lit pair, 0 for every other (R172). -/
theorem gsWord_getLsbD (litpos : BitVec 4) (ch : BitVec 2) (p : Nat) (c : Channel) {i : Nat} (hi : i < 16) :
    (gsWord litpos ch p c).getLsbD i = decide (p = litpos.toNat ∧ c.code = ch) := by
  have hon : gsOn = BitVec.allOnes 16 := rfl
  unfold gsWord
  split
  · next h => rw [hon, BitVec.getLsbD_allOnes, decide_eq_true hi, decide_eq_true h]
  · next h => simp [h, gsOff]

theorem gsLatch_toNat (p : Nat) (c : Channel) :
    (gsLatch p c).toNat = if c = .red then if p = 0 then 3 else 1 else 0 := by
  cases c with
  | blue => rfl
  | green => rfl
  | red => by_cases hp : p = 0 <;> simp [gsLatch, hp, gsMidLatch, gsEndLatch]

theorem Channel.code_lt (c : Channel) : c.code.toNat < 3 := by
  cases c <;> decide

theorem Channel.code_eq_two_iff (c : Channel) : c.code.toNat = 2 ↔ c = .red := by
  cases c <;> decide

/-! ## The levels within a frame -/

/-- From settled lines, a word of a frame leaves DATA 1 exactly if it was the lit one. -/
theorem performEvents_gsEvents (litpos : BitVec 4) (ch : BitVec 2) (k : Nat) (c : Channel) {p : Pins}
    (hp : p.Settled) :
    performEvents p (gsEvents litpos ch k c)
      = { data := decide (k = litpos.toNat ∧ c.code = ch), clock := false, latch := false, halo := p.halo } := by
  rw [gsEvents, performEvents_shiftEvents _ _ hp, gsWord_getLsbD _ _ _ _ (by decide)]

theorem positionEvents_eq (litpos : BitVec 4) (ch : BitVec 2) (k : Nat) :
    positionEvents litpos ch k
      = gsEvents litpos ch k .blue ++ (gsEvents litpos ch k .green ++ gsEvents litpos ch k .red) := by
  simp [positionEvents, channelOrder]

/-- A position leaves the levels of its last word, the Red one (R174). -/
theorem performEvents_positionEvents (litpos : BitVec 4) (ch : BitVec 2) (k : Nat) {p : Pins} (hp : p.Settled) :
    performEvents p (positionEvents litpos ch k)
      = { data := decide (k = litpos.toNat ∧ Channel.red.code = ch), clock := false, latch := false
          halo := p.halo } := by
  rw [positionEvents_eq, performEvents_append, performEvents_append, performEvents_gsEvents _ _ _ _ hp,
    performEvents_gsEvents _ _ _ _ ⟨rfl, rfl⟩, performEvents_gsEvents _ _ _ _ ⟨rfl, rfl⟩]

/-- The positions from `m` down to 0 leave the levels of position 0. -/
theorem performEvents_flatMap_positionEvents (litpos : BitVec 4) (ch : BitVec 2) (m : Nat) {p : Pins}
    (hp : p.Settled) :
    performEvents p ((downFrom (m + 1)).flatMap (positionEvents litpos ch))
      = { data := decide (0 = litpos.toNat ∧ Channel.red.code = ch), clock := false, latch := false
          halo := p.halo } := by
  rw [downFrom_succ, List.flatMap_cons, performEvents_append, performEvents_positionEvents _ _ _ hp]
  induction m with
  | zero => rfl
  | succ m ih =>
    rw [downFrom_succ, List.flatMap_cons, performEvents_append, performEvents_positionEvents _ _ _ ⟨rfl, rfl⟩]
    exact ih

/-! ## The rising edges of a frame -/

/-- What the rising edge number `j` of a frame samples, counted from 0 (R179, R183). -/
def frameEdge (litpos : BitVec 4) (ch : BitVec 2) (j : Nat) : Pins :=
  { data := decide (j / 16 = 3 * (15 - litpos.toNat) + ch.toNat)
    clock := true
    latch := decide ((j + 1) % 48 = 0 ∨ 766 ≤ j + 1)
    halo := false }

/-- The word of position `k` and channel `c` stands at `3·(15 − k) + c` in the stream, so it is the lit one exactly when
that is the place of the lit pair (R174). -/
theorem streamIndex_eq_iff {litpos : BitVec 4} {ch : BitVec 2} {k : Nat} {c : Channel} (hk : k < 16)
    (hch : ch.toNat < 3) :
    3 * (15 - k) + c.code.toNat = 3 * (15 - litpos.toNat) + ch.toNat ↔ k = litpos.toNat ∧ c.code = ch := by
  have hc := c.code_lt
  have hl := litpos.isLt
  rw [← BitVec.toNat_inj]
  omega

/-- Within a word of position `k` and channel `c`, the dual-mode latch covers the last edge of a Red word, and at position
0 the last three (R173). -/
theorem lt_gsLatch_iff {k j : Nat} (hk : k < 16) (hj : j < 16) (c : Channel) :
    15 - j < (gsLatch k c).toNat
      ↔ (48 * (15 - k) + 16 * c.code.toNat + j + 1) % 48 = 0
        ∨ 766 ≤ 48 * (15 - k) + 16 * c.code.toNat + j + 1 := by
  have hlt := c.code_lt
  have hred := c.code_eq_two_iff
  rw [gsLatch_toNat]
  split_ifs with hc hk0
  · have := hred.2 hc
    omega
  · have := hred.2 hc
    omega
  · have := mt hred.1 hc
    omega

/-- Edge `j` of the word of position `k` and channel `c` is edge `48·(15 − k) + 16·c + j` of the frame. -/
theorem bitEdge_gsWord {litpos : BitVec 4} {ch : BitVec 2} {k j : Nat} (hk : k < 16) (hj : j < 16)
    (hch : ch.toNat < 3) (c : Channel) :
    bitEdge (gsWord litpos ch k c) (gsLatch k c) false (15 - j)
      = frameEdge litpos ch (48 * (15 - k) + 16 * c.code.toNat + j) := by
  have hword : (48 * (15 - k) + 16 * c.code.toNat + j) / 16 = 3 * (15 - k) + c.code.toNat := by omega
  simp only [bitEdge, frameEdge, gsWord_getLsbD litpos ch k c (i := 15 - j) (by omega), lt_gsLatch_iff hk hj c, hword,
    streamIndex_eq_iff hk hch]

/-- A word of a frame makes its 16 edges of the frame, with HALO_EN low. -/
theorem risingEdges_gsEvents {litpos : BitVec 4} {ch : BitVec 2} {k : Nat} (hk : k < 16) (hch : ch.toNat < 3)
    (c : Channel) {p : Pins} (hp : p.Settled) (hh : p.halo = false) :
    risingEdges p (gsEvents litpos ch k c)
      = (List.range 16).map fun j => frameEdge litpos ch (48 * (15 - k) + 16 * c.code.toNat + j) := by
  rw [gsEvents, risingEdges_shiftEvents _ _ hp, hh]
  exact List.map_congr_left fun j hj => bitEdge_gsWord hk (List.mem_range.1 hj) hch c

/-- A position makes its 48 edges of the frame: Blue, Green, Red (R174). -/
theorem risingEdges_positionEvents {litpos : BitVec 4} {ch : BitVec 2} {k : Nat} (hk : k < 16) (hch : ch.toNat < 3)
    {p : Pins} (hp : p.Settled) (hh : p.halo = false) :
    risingEdges p (positionEvents litpos ch k)
      = (List.range 48).map fun j => frameEdge litpos ch (48 * (15 - k) + j) := by
  rw [positionEvents_eq, risingEdges_append, risingEdges_append, risingEdges_gsEvents hk hch _ hp hh,
    performEvents_gsEvents _ _ _ _ hp, hh, performEvents_gsEvents _ _ _ _ ⟨rfl, rfl⟩,
    risingEdges_gsEvents hk hch _ ⟨rfl, rfl⟩ rfl, risingEdges_gsEvents hk hch _ ⟨rfl, rfl⟩ rfl, range_48_eq_append,
    List.map_append, List.map_append, List.map_map, List.map_map, List.append_assoc]
  simp only [Function.comp_def, ← Nat.add_assoc]
  rfl

/-- The positions below `m` make the last `48·m` edges of the frame. -/
theorem risingEdges_flatMap_positionEvents {litpos : BitVec 4} {ch : BitVec 2} {m : Nat} (hm : m ≤ 16)
    (hch : ch.toNat < 3) {p : Pins} (hp : p.Settled) (hh : p.halo = false) :
    risingEdges p ((downFrom m).flatMap (positionEvents litpos ch))
      = (List.range (48 * m)).map fun j => frameEdge litpos ch (48 * (16 - m) + j) := by
  induction m generalizing p with
  | zero => rfl
  | succ m ih =>
    have hfirst : 16 - (m + 1) = 15 - m := by omega
    have hnext : 48 * (16 - m) = 48 * (15 - m) + 48 := by omega
    rw [downFrom_succ, List.flatMap_cons, risingEdges_append, risingEdges_positionEvents hm hch hp hh,
      performEvents_positionEvents _ _ _ hp, hh, ih (by omega) ⟨rfl, rfl⟩ rfl, Nat.mul_succ, Nat.add_comm (48 * m),
      List.range_add, List.map_append, List.map_map, hfirst, hnext]
    simp only [Function.comp_def, Nat.add_assoc]

/-! ## The latch windows of a frame -/

/-- A bit opens a latch window exactly if it lies in the trailing window and LATCH is not up yet. -/
theorem latchWindows_bitEvents (w : Word) (n : BitVec 5) (p : Pins) (i : Nat) :
    latchWindows p (bitEvents w n i) = if p.latch = false ∧ i < n.toNat then 1 else 0 := by
  rw [bitEvents_eq]
  by_cases hi : i < n.toNat <;> cases hl : p.latch <;> simp [hi, hl, latchWindows, performEvent]

/-- The bits below `m` open one latch window, unless LATCH is up already or there is no bit under latch. -/
theorem latchWindows_flatMap_bitEvents {w : Word} {n : BitVec 5} {p : Pins} {m : Nat}
    (hl : p.latch = true → m ≤ n.toNat) :
    latchWindows p ((downFrom m).flatMap (bitEvents w n))
      = if p.latch = false ∧ 0 < n.toNat ∧ 0 < m then 1 else 0 := by
  induction m generalizing p with
  | zero => simp [downFrom, latchWindows]
  | succ m ih =>
    rw [downFrom_succ, List.flatMap_cons, latchWindows_append, latchWindows_bitEvents, performEvents_bitEvents hl,
      ih fun h => Nat.le_of_lt (of_decide_eq_true h)]
    simp only [bitEdge, decide_eq_false_iff_not]
    cases hp : p.latch with
    | true => simp [Nat.lt_of_succ_le (hl hp)]
    | false =>
      simp only [true_and]
      split_ifs <;> omega

/-- From settled lines, a shift opens one latch window if its latch count is not 0, and none otherwise. -/
theorem latchWindows_shiftEvents (w : Word) (n : BitVec 5) {p : Pins} (hp : p.Settled) :
    latchWindows p (shiftEvents w n) = if 0 < n.toNat then 1 else 0 := by
  have hlast : ∀ q : Pins, latchWindows q [.setLatch false] = 0 := fun q => by simp [latchWindows, performEvent]
  rw [shiftEvents, latchWindows_append, hlast, Nat.add_zero, latchWindows_flatMap_bitEvents (by simp [hp.2])]
  simp [hp.2, wordWidth]

/-- A position opens one latch window, in its Red word (R173). -/
theorem latchWindows_positionEvents (litpos : BitVec 4) (ch : BitVec 2) (k : Nat) {p : Pins} (hp : p.Settled) :
    latchWindows p (positionEvents litpos ch k) = 1 := by
  have hred : 0 < (gsLatch k .red).toNat := by
    rw [gsLatch_toNat, if_pos rfl]
    split <;> decide
  rw [positionEvents_eq, latchWindows_append, latchWindows_append, performEvents_gsEvents _ _ _ _ hp,
    performEvents_gsEvents _ _ _ _ ⟨rfl, rfl⟩, gsEvents, gsEvents, gsEvents, latchWindows_shiftEvents _ _ hp,
    latchWindows_shiftEvents _ _ ⟨rfl, rfl⟩, latchWindows_shiftEvents _ _ ⟨rfl, rfl⟩, if_pos hred]
  rfl

theorem latchWindows_flatMap_positionEvents (litpos : BitVec 4) (ch : BitVec 2) (m : Nat) {p : Pins}
    (hp : p.Settled) : latchWindows p ((downFrom m).flatMap (positionEvents litpos ch)) = m := by
  induction m generalizing p with
  | zero => rfl
  | succ m ih =>
    rw [downFrom_succ, List.flatMap_cons, latchWindows_append, latchWindows_positionEvents _ _ _ hp,
      performEvents_positionEvents _ _ _ hp, ih ⟨rfl, rfl⟩, Nat.add_comm]

/-! ## The frame between its two changes of HALO_EN -/

/-- A change of HALO_EN makes no rising edge. -/
theorem risingEdges_setHalo_cons (p : Pins) (b : Bool) (es : List Event) :
    risingEdges p (.setHalo b :: es) = risingEdges { p with halo := b } es := by
  simp [risingEdges, performEvent]

/-- A change of HALO_EN opens no latch window. -/
theorem latchWindows_setHalo_cons (p : Pins) (b : Bool) (es : List Event) :
    latchWindows p (.setHalo b :: es) = latchWindows { p with halo := b } es := by
  simp [latchWindows, performEvent]

theorem risingEdges_renderEvents (f : Word) {ch : BitVec 2} (dir : Bool) (hch : ch.toNat < 3) {p : Pins}
    (hp : p.Settled) :
    risingEdges p (renderEvents f ch dir) = (List.range 768).map (frameEdge (frameLitpos f dir) ch) := by
  rw [renderEvents, List.cons_append, risingEdges_setHalo_cons, risingEdges_append, risingEdges_setHalo_cons,
    risingEdges_flatMap_positionEvents (by decide) hch (by exact hp) rfl, risingEdges, List.append_nil]
  simp [ledCount]

theorem latchWindows_renderEvents (f : Word) (ch : BitVec 2) (dir : Bool) {p : Pins} (hp : p.Settled) :
    latchWindows p (renderEvents f ch dir) = 16 := by
  rw [renderEvents, List.cons_append, latchWindows_setHalo_cons, latchWindows_append, latchWindows_setHalo_cons,
    latchWindows_flatMap_positionEvents _ _ _ (by exact hp)]
  rfl

theorem performEvents_renderEvents (f : Word) (ch : BitVec 2) (dir : Bool) {p : Pins} (hp : p.Settled) :
    performEvents p (renderEvents f ch dir)
      = { data := decide (0 = (frameLitpos f dir).toNat ∧ Channel.red.code = ch), clock := false, latch := false
          halo := true } := by
  rw [renderEvents, List.cons_append, performEvents_cons, performEvents_concat, ledCount,
    performEvents_flatMap_positionEvents _ _ _ (settled_of_setHalo hp false)]
  rfl

/-! ## What leaves the result alone -/

/-- The three result fields (R28). -/
def State.result (s : State) : Bool × BitVec 4 × BitVec 4 := (s.resInrange, s.resKidx, s.resLitpos)

theorem State.result_ne_iff (s t : State) :
    t.result ≠ s.result ↔ t.resInrange ≠ s.resInrange ∨ t.resKidx ≠ s.resKidx ∨ t.resLitpos ≠ s.resLitpos := by
  simp only [State.result, ne_eq, Prod.mk.injEq, not_and_or]

/-- Only a RENDER that is accepted writes the result (R178). -/
theorem exec_result_change {i : Instr} {s b : State} (hx : exec i s = .next b) (h : b.result ≠ s.result) :
    s.queue = [] ∧ isRender i = true := by
  by_cases hq : s.queue = []
  · rcases exec_idle_cases hq hx with ⟨-, _, _, rfl⟩ | ⟨-, -, rfl⟩ | ⟨f, ch, dir, rfl, -, -⟩ | ⟨-, rfl⟩
    · exact absurd rfl h
    · exact absurd rfl h
    · exact ⟨hq, rfl⟩
    · exact absurd rfl h
  · rw [exec_busy hq hx] at h
    exact absurd rfl h

theorem present_flagIll_result (s : State) : (s.present State.flagIll).result = s.result := by
  unfold State.present
  split <;> rfl

/-! ## The statements of the family -/

/-- Settles O36: an accepted RENDER writes the result of R170 and R171 and queues the positions' events between the two
changes of HALO_EN. -/
theorem renderWritesResultAndQueuesTheFrame : Obligations.RenderWritesResultAndQueuesTheFrame :=
  fun f ch dir _ hq hch =>
    ⟨frameKidx f, frameLitpos f dir, (downFrom ledCount).flatMap (positionEvents (frameLitpos f dir) ch),
      exec_render_idle hq (ne_three_of_toNat_lt hch), frameKidx_toNat f, frameLitpos_toNat f dir,
      flatMap_positionEvents_length _ ch ledCount⟩

/-- Settles O38: the edges, the latch windows and the last levels of the frame's 16 positions. -/
theorem renderWaveformLightsOneWord : Obligations.RenderWaveformLightsOneWord := by
  intro f ch dir s hq hch hc hl
  have hp : s.pins.Settled := ⟨hc, hl⟩
  refine ⟨_, exec_render_idle hq (ne_three_of_toNat_lt hch), ?_, latchWindows_renderEvents f ch dir hp, ?_⟩
  · rw [← frameLitpos_toNat]
    exact risingEdges_renderEvents f dir hch hp
  · refine (performEvents_renderEvents f ch dir hp).trans ?_
    have hred : Channel.red.code = ch ↔ ch.toNat = 2 := by rw [eq_comm, ← BitVec.toNat_inj]; rfl
    simp only [← frameLitpos_toNat, hred, eq_comm (a := 0)]

/-- Settles O44: of all that a step can do to the block, only an RST assertion and an accepted RENDER write the result. -/
theorem onlyRenderAndResetChangeTheResult : Obligations.OnlyRenderAndResetChangeTheResult := by
  intro s t hst hne
  obtain ⟨b, d, hb, rfl⟩ := step_blockStep hst
  have hres : b.result ≠ s.result := (State.result_ne_iff s b).2 hne
  generalize (nextTurn s).1 = u at hb ⊢
  cases hb with
  | assertRst => exact .inl rfl
  | command hr hh hd hx =>
    obtain ⟨hq, hi⟩ := exec_result_change hx hres
    exact .inr ⟨rfl, hr, hq, _, _, _, hh, hd, hi⟩
  | illegal => exact absurd (present_flagIll_result s) hres
  | releaseRst | unchanged | perform | clearErrors => exact absurd rfl hres

end Sys2Proof.Machine
end

section
/-! PROOFS. The family spec/60_exceptions.md: what a busy block drops, what a step can do to the error bits, and that no
command reads them. -/

namespace Sys2Proof.Machine

/-! ## The busy block -/

theorem exec_of_busy (i : Instr) {s : State} (hq : s.queue ≠ []) : exec i s = .next s.flagBusy := by
  obtain ⟨t, ht⟩ := exec_answers_next i s
  rw [ht, exec_busy hq ht]

/-- While events are pending, a word written to CMD is dropped, whether or not it decodes (R202). -/
theorem writeCmd_of_busy (v : Word32) {s : State} (hq : s.queue ≠ []) : writeCmd v s = .next s.flagBusy := by
  cases hd : decode v with
  | ok i => rw [writeCmd_of_decode_ok hd, exec_of_busy i hq]
  | error e => simp only [writeCmd, hd, accept_busy hq]

/-! ## The error bits in a step -/

/-- What a step of turn `u` can do to the error bits: a reset clears both (R38), a STATUS write clears those it names
(R206), a word written to CMD reports one of them (R201, R202), and everything else keeps them. -/
inductive ErrorStep (s : State) (u : Turn) (t : State) : Prop
  | reset (hu : u = .rst true) (hi : t.errIll = false) (hb : t.errBusy = false)
  | clear {v : Word32} {hs : List HostAction} (hu : u = .agent .host) (hh : s.host = wr .status v :: hs)
      (hi : t.errIll = (s.errIll && !v.getLsbD 1)) (hb : t.errBusy = (s.errBusy && !v.getLsbD 2))
  | reportIll (hq : s.queue = []) (hi : t.errIll = true) (hb : t.errBusy = s.errBusy)
  | reportBusy (hq : s.queue ≠ []) (hi : t.errIll = s.errIll) (hb : t.errBusy = true)
  | keep (hi : t.errIll = s.errIll) (hb : t.errBusy = s.errBusy)

theorem exec_errorStep {i : Instr} {s t : State} (u : Turn) (h : exec i s = .next t) : ErrorStep s u t := by
  rcases exec_cases h with ⟨hq, rfl⟩ | ⟨hq, rfl | ⟨_, rfl⟩ | ⟨_, rfl⟩ | ⟨_, _, _, _, rfl⟩ | rfl⟩
  · exact .reportBusy hq rfl rfl
  · exact .keep rfl rfl
  · exact .keep rfl rfl
  · exact .keep rfl rfl
  · exact .keep rfl rfl
  · exact .reportIll hq rfl rfl

/-- Presenting an illegal word reports ERR_ILL, or ERR_BUSY while busy, which comes first (R204). -/
theorem present_flagIll_errorStep (s : State) (u : Turn) : ErrorStep s u (s.present State.flagIll) := by
  by_cases hq : s.queue = []
  · rw [present_idle hq]
    exact .reportIll hq rfl rfl
  · rw [present_busy hq]
    exact .reportBusy hq rfl rfl

theorem BlockStep.errorStep {s b : State} {u : Turn} (h : BlockStep s u b) : ErrorStep s u b := by
  cases h with
  | assertRst => exact .reset rfl rfl rfl
  | clearErrors _ hh => exact .clear rfl hh rfl rfl
  | illegal => exact present_flagIll_errorStep s _
  | command _ _ _ hx => exact exec_errorStep _ hx
  | releaseRst | unchanged | perform => exact .keep rfl rfl

theorem ErrorStep.withDriver {s b : State} {u : Turn} (h : ErrorStep s u b) (d : State) :
    ErrorStep s u (b.withDriver d) := by
  cases h with
  | reset hu hi hb => exact .reset hu hi hb
  | clear hu hh hi hb => exact .clear hu hh hi hb
  | reportIll hq hi hb => exact .reportIll hq hi hb
  | reportBusy hq hi hb => exact .reportBusy hq hi hb
  | keep hi hb => exact .keep hi hb

/-- Everything that a step can do to the error bits. -/
theorem step_errorStep {s t : State} (h : step s = .next t) : ErrorStep s (nextTurn s).1 t := by
  obtain ⟨b, d, hb, rfl⟩ := step_blockStep h
  exact hb.errorStep.withDriver d

/-! ## Commands under other error bits -/

/-- The state with other values of the error bits. -/
def State.withErrors (ill busy : Bool) (s : State) : State := { s with errIll := ill, errBusy := busy }

/-- A command whose effect carries the error bits along is presented alike under other values of them: accepted, they
stay; dropped, ERR_BUSY is set. -/
theorem accept_withErrors {effect : State → State} {s t : State} {ill busy : Bool}
    (he : effect (s.withErrors ill busy) = (effect s).withErrors ill busy) (h : accept effect s = .next t) :
    accept effect (s.withErrors ill busy) = .next (t.withErrors ill (if s.queue = [] then busy else true)) := by
  rcases accept_cases h with ⟨hq, rfl⟩ | ⟨hq, rfl⟩
  · rw [accept_idle (s := s.withErrors ill busy) hq, he, if_pos hq]
  · rw [accept_busy (s := s.withErrors ill busy) hq, if_neg hq]
    rfl

theorem exec_withErrors {i : Instr} {s t : State} (ill busy : Bool) (hwf : i.wf = true) (h : exec i s = .next t) :
    exec i (s.withErrors ill busy) = .next (t.withErrors ill (if s.queue = [] then busy else true)) := by
  cases i with
  | render f ch dir =>
    have hc : ch ≠ 3#2 := by simpa [Instr.wf] using hwf
    refine accept_withErrors ?_ h
    simp only [hc, if_false]
    rfl
  | _ => exact accept_withErrors rfl h

/-! ## The statements of the family -/

/-- Settles O9: a busy block drops the word before it is decoded. -/
theorem busyWritesOnlySetErrBusy : Obligations.BusyWritesOnlySetErrBusy := by
  intro s ts hs v hr ht hh hq
  rw [step_cmdWrite hr ht hh]
  exact writeCmd_of_busy v hq

/-- Settles O10: every command answers a next state, and while busy that is the state with ERR_BUSY set. -/
theorem busyCommandsAreDropped : Obligations.BusyCommandsAreDropped :=
  fun i _ hq => exec_of_busy i hq

/-- Settles O42: every turn answers a next state. -/
theorem everyStepAnswersNext : Obligations.EveryStepAnswersNext :=
  step_answers_next

/-- Settles O41: the effect of every well-formed command carries the error bits along. -/
theorem commandsDoNotReadErrorBits : Obligations.CommandsDoNotReadErrorBits :=
  fun _ _ _ ill busy hwf hx => exec_withErrors ill busy hwf hx

/-- Settles O46: of all that a step can do to the error bits, only a reset and a STATUS write clear one. -/
theorem errorBitsAreSticky : Obligations.ErrorBitsAreSticky := by
  intro s t hst
  cases step_errorStep hst with
  | reset hu => exact ⟨fun _ _ => .inl hu, fun _ _ => .inl hu⟩
  | clear hu hh hi hb =>
    exact ⟨fun h1 h0 => .inr ⟨hu, _, _, hh, by simpa [h1, h0] using hi⟩,
      fun h1 h0 => .inr ⟨hu, _, _, hh, by simpa [h1, h0] using hb⟩⟩
  | reportIll _ hi hb | reportBusy _ hi hb | keep hi hb => simp +contextual [hi, hb]

/-- Settles O47: of all that a step can do to the error bits, only a report sets one, and it keeps the other. -/
theorem oneAccessSetsAtMostOneErrorBit : Obligations.OneAccessSetsAtMostOneErrorBit := by
  intro s t hst
  cases step_errorStep hst with
  | reportIll hq hi hb => simp +contextual [hq, hb]
  | reportBusy hq hi hb => simp +contextual [hq, hi]
  | reset _ hi hb | clear _ _ hi hb | keep hi hb => simp +contextual [hi, hb]

end Sys2Proof.Machine
end

section
/-! PROOFS. The family spec/70_reset_and_hazards.md: the RST input, and how many events each command queues. -/

namespace Sys2Proof.Machine

/-! ## Asserting RST -/

/-- A turn that asserts RST shows one reset step, or none if RST was asserted already (R231). -/
theorem assertRst_wave_cases (s : State) :
    (s.rst = false ∧ (s.setRst true).wave = .reset :: s.wave)
      ∨ (s.rst = true ∧ (s.setRst true).wave = s.wave) := by
  cases hr : s.rst with
  | false => exact .inl ⟨rfl, by simp [hr]⟩
  | true => exact .inr ⟨rfl, by simp [hr]⟩

/-! ## Turns under RST -/

/-- While RST is asserted the engine takes no step (R230). -/
theorem engineStep_of_rst {s : State} (hr : s.rst = true) : engineStep s = s := by
  rw [engineStep, if_pos hr]

/-- While RST is asserted every access is discarded (R230). -/
theorem hostAccess_of_rst (a : Access) {s : State} (hr : s.rst = true) :
    hostAccess a s = .next (s.respond .discarded) := by
  rw [hostAccess, if_pos hr]

/-- While RST is asserted the read of WAIT is discarded, so WAIT goes on (R230). -/
theorem waitRead_of_rst (rest : List HostAction) {s : State} (hr : s.rst = true) :
    waitRead rest s = s.respond .discarded := by
  rw [waitRead, if_pos hr]

/-- The step in which the host performs the read of the WAIT at the head of its actions. -/
theorem step_waitRead {s : State} {ts : List Turn} {hs : List HostAction} (ht : s.turns = .agent .host :: ts)
    (hh : s.host = .wait :: hs) : step s = .next (waitRead hs { s with turns := ts }) := by
  rw [step_of_turn ht]
  simp only [takeTurn, hostTurn, hh]

/-! ## The statements of the family -/

/-- Settles O39: the lengths of the event lists, one case a kind of command. -/
theorem eventCountsOfTheCommands : Obligations.EventCountsOfTheCommands := by
  intro fc i _
  cases i with
  | shift word n => exact shiftEvents_length word n
  | unlock => exact unlockEvents_length
  | fcload => exact fcloadEvents_length fc
  | render f ch dir => exact renderEvents_length f ch dir
  | _ => rfl

/-- Settles O17: the step is the RST assertion, which shows a reset step only if RST was not asserted. -/
theorem assertingRstResetsTheBlock : Obligations.AssertingRstResetsTheBlock := by
  intro s ts ht
  refine ⟨_, step_of_turn ht, .assertRst _, rfl, rfl, rfl, rfl, ?_⟩
  rcases assertRst_wave_cases { s with turns := ts } with ⟨-, hw⟩ | ⟨hr, hw⟩ <;> rw [hw]
  · exact ⟨fun _ => rfl, fun _ => rfl⟩
  · exact ⟨fun h => absurd (h.symm.trans hr) Bool.false_ne_true, fun h => absurd rfl h⟩

/-- Settles O18: under RST the engine holds, and an access and a WAIT are answered as discarded. -/
theorem rstHoldsTheBlock : Obligations.RstHoldsTheBlock := by
  intro s ts hr
  refine ⟨fun ht => ?_, fun a hs ht hh => ?_, fun hs ht hh => ?_, fun ht => step_of_turn ht⟩
  · rw [step_of_turn ht, takeTurn, engineStep_of_rst (by exact hr)]
  · rw [step_access ht hh, hostAccess_of_rst a (by exact hr)]
    rfl
  · rw [step_waitRead ht hh, waitRead_of_rst hs (by exact hr)]
    rfl

end Sys2Proof.Machine
end
